-- ==== Sys2Proof/Config.lean ====
section
/-! DEFINITION. The implementation parameters (`00_scope.md` R5). `HAVE_NATIVE_WIDE` is fixed for this hardware. The OPEN
ones, `HOST_ENDIAN`, `IMPL_STRATEGY` and `LATENCY(op)`, have no value here: R5 says "A model takes the `OPEN` ones as
arguments", so each is an argument of the definitions that read it, and every statement about such a definition holds for
every value of it. There is no free value: no operation of the unit has an undefined result (`60_exceptions.md` R104). -/

namespace Sys2Proof

/-- `HAVE_NATIVE_WIDE`, fixed `false` (`00_scope.md` R5, decision D2): the unit never has a divider
(`43_divide_modulo.md` R72). -/
def Config.haveNativeWide : Bool := false

/-- `HOST_ENDIAN` (`00_scope.md` R5; OPEN). It changes only the 16-byte memory image of a value (`20_memory.md` R21). -/
inductive HostEndian where
  | big
  | little
deriving DecidableEq, Repr

/-- `IMPL_STRATEGY` (`00_scope.md` R5; OPEN and unobservable, `41_add_sub.md` R54). -/
inductive ImplStrategy where
  | ripple
  | parallel
deriving DecidableEq, Repr

end Sys2Proof
end

