-- ==== Sys2Proof/Word.lean ====
section
/-! DEFINITION. The word types of the U128 unit (`00_scope.md` R6: every value is an unsigned integer of a stated width,
bit 0 the least significant) and the names of their widths. -/

namespace Sys2Proof

/-- An 8-bit unit of a value (`40_representation.md` R42). -/
abbrev Byte := BitVec 8

/-- A 16-bit unit of a value (R42). -/
abbrev W16 := BitVec 16

/-- A 32-bit unit: one limb (`00_scope.md` R5, `LIMB_BITS`). -/
abbrev W32 := BitVec 32

/-- A 64-bit unit: one half of a value (`40_representation.md` R41). -/
abbrev W64 := BitVec 64

/-- A `U128` value: 128 bits, read as an unsigned integer (`40_representation.md` R40). -/
abbrev U128 := BitVec 128

/-- The operation select `op` (`30_encoding.md` R31: 4 bits). -/
abbrev OpSel := BitVec 4

/-- A command seen as one 260-bit word, `op ‖ lhs ‖ rhs` (`30_encoding.md` R31). -/
abbrev CmdWord := BitVec 260

end Sys2Proof
end

