-- ==== Sys2Proof/Syntax.lean ====
section
/-! DEFINITION. The commands of the unit: one constructor for each of the sixteen rows of `spec/opcode_table.json`, that is
for each value of `op` (`30_encoding.md` R32), and the command-script notation (R36) as abstract syntax. -/

namespace Sys2Proof

/-- A command: its operation and its two 128-bit operands (`30_encoding.md` R31, R32). The five reserved values of `op`
are rows of the table of their own (R35), so each has a constructor. -/
inductive Instr where
  /-- 0x0 `ADD` (`41_add_sub.md` R50) -/
  | add (lhs rhs : U128)
  /-- 0x1 `SUB` (`41_add_sub.md` R51) -/
  | sub (lhs rhs : U128)
  /-- 0x2 `MUL` (`42_multiply.md` R60) -/
  | mul (lhs rhs : U128)
  /-- 0x3 `DIV` (`43_divide_modulo.md` R70) -/
  | div (lhs rhs : U128)
  /-- 0x4 `MOD` (`43_divide_modulo.md` R71) -/
  | mod (lhs rhs : U128)
  /-- 0x5 reserved (`30_encoding.md` R35) -/
  | reserved5 (lhs rhs : U128)
  /-- 0x6 reserved (R35) -/
  | reserved6 (lhs rhs : U128)
  /-- 0x7 reserved (R35) -/
  | reserved7 (lhs rhs : U128)
  /-- 0x8 `EQ` (`44_compare.md` R80) -/
  | eq (lhs rhs : U128)
  /-- 0x9 `NE` (R81) -/
  | ne (lhs rhs : U128)
  /-- 0xA `LT` (R82) -/
  | lt (lhs rhs : U128)
  /-- 0xB `LE` (R83) -/
  | le (lhs rhs : U128)
  /-- 0xC `GT` (R84) -/
  | gt (lhs rhs : U128)
  /-- 0xD `GE` (R85) -/
  | ge (lhs rhs : U128)
  /-- 0xE reserved (`30_encoding.md` R35) -/
  | reservedE (lhs rhs : U128)
  /-- 0xF reserved (R35) -/
  | reservedF (lhs rhs : U128)
deriving DecidableEq, Repr

/-- The left operand of a command (`30_encoding.md` R31). -/
def Instr.lhs : Instr → U128
  | .add l _ | .sub l _ | .mul l _ | .div l _ | .mod l _ | .reserved5 l _ | .reserved6 l _ | .reserved7 l _
  | .eq l _ | .ne l _ | .lt l _ | .le l _ | .gt l _ | .ge l _ | .reservedE l _ | .reservedF l _ => l

/-- The right operand of a command (`30_encoding.md` R31). -/
def Instr.rhs : Instr → U128
  | .add _ r | .sub _ r | .mul _ r | .div _ r | .mod _ r | .reserved5 _ r | .reserved6 _ r | .reserved7 _ r
  | .eq _ r | .ne _ r | .lt _ r | .le _ r | .gt _ r | .ge _ r | .reservedE _ r | .reservedF _ r => r

/-- The eleven mnemonics a script line can name (`30_encoding.md` R36); a reserved `op` has no mnemonic. -/
inductive Mnemonic where
  | ADD | SUB | MUL | DIV | MOD | EQ | NE | LT | LE | GT | GE
deriving DecidableEq, Repr

/-- The command a mnemonic names, with its operands (`30_encoding.md` R32, R36: the first operand is `lhs`). -/
def Mnemonic.command (m : Mnemonic) (l r : U128) : Instr :=
  match m with
  | .ADD => .add l r
  | .SUB => .sub l r
  | .MUL => .mul l r
  | .DIV => .div l r
  | .MOD => .mod l r
  | .EQ => .eq l r
  | .NE => .ne l r
  | .LT => .lt l r
  | .LE => .le l r
  | .GT => .gt l r
  | .GE => .ge l r

/-- The operand forms of a script line (`30_encoding.md` R36): `hex128`, `u64be(...)`, `u32be(...)`, `%label`. -/
inductive ScriptOperand where
  | hex128 (v : U128)
  | u64be (i0 i1 : W64)
  | u32be (i0 i1 i2 i3 : W32)
  | ref (label : String)
deriving DecidableEq, Repr

/-- A script line, `[ label "=" ] MNEMONIC operand "," operand` (`30_encoding.md` R36). -/
structure ScriptLine where
  label    : Option String
  mnemonic : Mnemonic
  lhs      : ScriptOperand
  rhs      : ScriptOperand
deriving DecidableEq, Repr

end Sys2Proof
end

