-- ==== Sys2Proof/WellFormed.lean ====
section
/-! DEFINITION. The checks the spec has. A command term has none: both operands are of exactly 128 bits by their type
(`40_representation.md` R46), every operand pair is admitted, and "Every one of the `2^260` command words has a defined
outcome" (`60_exceptions.md` R104). What can be ill-formed is a number that is to be a command word (it may be wider than 260
bits), a host that breaks its standing duty, and a script whose labels do not resolve. -/

namespace Sys2Proof

/-- A number fits the 260-bit command word of `30_encoding.md` R31: above the 256 operand bits it has one hexadecimal digit
at most. A wider number is no command (R39: one length). -/
def fitsCommandWord (w : Nat) : Bool := decide (w / 2 ^ 256 < 16)

/-- The host's standing duty (`43_divide_modulo.md` R72; `70_reset_and_hazards.md` R107): it issues no `DIV` or `MOD`
where the capability is absent, and no reserved `op`. -/
def Instr.dutiful : Instr → Bool
  | .div _ _ | .mod _ _ => Config.haveNativeWide
  | .reserved5 _ _ | .reserved6 _ _ | .reserved7 _ _ | .reservedE _ _ | .reservedF _ _ => false
  | .add _ _ | .sub _ _ | .mul _ _ | .eq _ _ | .ne _ _ | .lt _ _ | .le _ _ | .gt _ _ | .ge _ _ => true

/-- An operand form resolves when its label, if it has one, is among the labels of earlier lines (`30_encoding.md` R36). -/
def ScriptOperand.resolves (earlier : List String) : ScriptOperand → Bool
  | .ref label => earlier.contains label
  | .hex128 _ | .u64be _ _ | .u32be _ _ _ _ => true

/-- A script is well formed after the given labels: each `%label` refers to an earlier line, and no two lines carry one
label (`30_encoding.md` R36, "the earlier line with that label"; that a label names one line is log entry 9). -/
def Script.wellFormed : List String → List ScriptLine → Bool
  | _, [] => true
  | earlier, line :: rest =>
    line.lhs.resolves earlier && line.rhs.resolves earlier &&
      match line.label with
      | none => Script.wellFormed earlier rest
      | some label => !earlier.contains label && Script.wellFormed (label :: earlier) rest

/-- A line that keeps the host's duty: its mnemonic is neither `DIV` nor `MOD` (`70_reset_and_hazards.md` R107). -/
def ScriptLine.dutiful (line : ScriptLine) : Bool := (line.mnemonic.command 0 0).dutiful

end Sys2Proof
end

