-- ==== Sys2Proof/Decode.lean ====
section
/-! DEFINITION. From a 260-bit command word to a command and back (`30_encoding.md` R31, R32, R39). The decoder reads `op`
alone to choose the operation and is total: all sixteen values of `op` are rows of the table, so there is nothing to reject
below 260 bits. -/

namespace Sys2Proof

/-- Field `op` of the command word, bits `[259:256]` (`30_encoding.md` R31). -/
def opField (w : CmdWord) : OpSel := w.extractLsb' 256 4

/-- Field `lhs` of the command word, bits `[255:128]` (R31). -/
def lhsField (w : CmdWord) : U128 := w.extractLsb' 128 128

/-- Field `rhs` of the command word, bits `[127:0]` (R31). -/
def rhsField (w : CmdWord) : U128 := w.extractLsb' 0 128

/-- The command word of three port fields, `op ‖ lhs ‖ rhs` (R31). -/
def commandWord (op : OpSel) (lhs rhs : U128) : CmdWord := (op ++ lhs) ++ rhs

/-- The operation map of `30_encoding.md` R32, read from the column "binary", most significant bit first. -/
def selectOp (op : OpSel) (lhs rhs : U128) : Instr :=
  match op[3], op[2], op[1], op[0] with
  | false, false, false, false => .add lhs rhs
  | false, false, false, true  => .sub lhs rhs
  | false, false, true,  false => .mul lhs rhs
  | false, false, true,  true  => .div lhs rhs
  | false, true,  false, false => .mod lhs rhs
  | false, true,  false, true  => .reserved5 lhs rhs
  | false, true,  true,  false => .reserved6 lhs rhs
  | false, true,  true,  true  => .reserved7 lhs rhs
  | true,  false, false, false => .eq lhs rhs
  | true,  false, false, true  => .ne lhs rhs
  | true,  false, true,  false => .lt lhs rhs
  | true,  false, true,  true  => .le lhs rhs
  | true,  true,  false, false => .gt lhs rhs
  | true,  true,  false, true  => .ge lhs rhs
  | true,  true,  true,  false => .reservedE lhs rhs
  | true,  true,  true,  true  => .reservedF lhs rhs

/-- Decoding: `op` selects the operation, the operands are taken as they stand (`30_encoding.md` R32, R33, R39). -/
def decode (w : CmdWord) : Instr := selectOp (opField w) (lhsField w) (rhsField w)

/-- The `op` value of a command (`30_encoding.md` R32, first column; the table's `op_match`). -/
def Instr.op : Instr → OpSel
  | .add _ _ => 0x0#4
  | .sub _ _ => 0x1#4
  | .mul _ _ => 0x2#4
  | .div _ _ => 0x3#4
  | .mod _ _ => 0x4#4
  | .reserved5 _ _ => 0x5#4
  | .reserved6 _ _ => 0x6#4
  | .reserved7 _ _ => 0x7#4
  | .eq _ _ => 0x8#4
  | .ne _ _ => 0x9#4
  | .lt _ _ => 0xA#4
  | .le _ _ => 0xB#4
  | .gt _ _ => 0xC#4
  | .ge _ _ => 0xD#4
  | .reservedE _ _ => 0xE#4
  | .reservedF _ _ => 0xF#4

/-- Encoding: the 260-bit word of a command (`30_encoding.md` R31, R36). -/
def encode (i : Instr) : CmdWord := commandWord i.op i.lhs i.rhs

/-- The table's `match` on the whole command word for an `op` value (R32). -/
def opMatch (op : OpSel) : CmdWord := commandWord op 0 0

/-- The command word whose bits are the number `w`, bit 0 being `rhs[0]`: the field `op` from `w[259:256]`, `lhs` from
`w[255:128]`, `rhs` from `w[127:0]` (`30_encoding.md` R31). Bits above 259 do not exist. -/
def numberedWord (w : Nat) : CmdWord :=
  commandWord (BitVec.ofNat 4 (w / 2 ^ 256)) (BitVec.ofNat 128 (w / 2 ^ 128)) (BitVec.ofNat 128 w)

/-- The table's `mask` on the whole command word: the `op` digit, then 64 zero digits (`30_encoding.md` R32). -/
def opMask : CmdWord := numberedWord 0xF0000000000000000000000000000000000000000000000000000000000000000

/-- The host's view of the decoder: the number `w` taken as a command word, numbered as the opcode table numbers it
(`30_encoding.md` R31, R32; log entry 8). Bits above the row's `nbits` are zero in `w` itself. A number of more than 260 bits
is no command. -/
def decodeTableWord (_nbits w : Nat) : Option Instr :=
  if fitsCommandWord w then some (decode (numberedWord w)) else none

end Sys2Proof
end

