-- ==== Sys2Proof/Machine/State.lean ====
section
/-! DEFINITION. The state (`10_state.md` R10 to R19), the reasons to stop, and the state after reset. The unit's own state
is `Status` and nothing else. `script` and `responses` are the HOST's: a step has neither an input nor an output channel in
the interface, so what the host presents and what it has captured stand here as plain data (log entries 1 and 2). -/

namespace Sys2Proof.Machine

/-- `STATUS`: "The complete architectural state of the unit is the pair `(ABORTED, ABORT_CODE)`" (`10_state.md` R10, R14). -/
structure Status where
  /-- `ABORTED`, `STATUS[0]` -/
  aborted   : Bool
  /-- `ABORT_CODE`, `STATUS[2:1]` -/
  abortCode : BitVec 2
deriving DecidableEq, Repr

/-- `STATUS` after reset: `ABORTED = 0`, `ABORT_CODE = 0` (`10_state.md` R19; `70_reset_and_hazards.md` R105). -/
def Status.reset : Status := { aborted := false, abortCode := 0#2 }

/-- The causes of an abort (`60_exceptions.md` R90). -/
inductive AbortCause where
  /-- raised by `DIV` and `MOD` (`60_exceptions.md` R92) -/
  | unsupportedOperation
  /-- raised by the reserved values of `op` (`60_exceptions.md` R91) -/
  | illegalOperation
deriving DecidableEq, Repr

/-- A response, `RSP`: a 128-bit value and a one-bit predicate (`30_encoding.md` R31). -/
structure Response where
  value : U128
  flag  : Bool
deriving DecidableEq, Repr

/-- What the host does in one step (`00_scope.md` R9): it drives `rst`, and presents a command word or none
(`cmd_valid = 0`). Reset and a command may meet (`60_exceptions.md` R97). -/
structure HostAction where
  rst : Bool
  cmd : Option CmdWord
deriving DecidableEq, Repr

/-- The machine at the command level (`00_scope.md` R9). -/
structure State where
  /-- the unit's whole state -/
  status    : Status
  /-- the host's: the actions it has yet to take, the next one first (`10_state.md` R12) -/
  script    : List HostAction
  /-- the host's: the responses it has captured, oldest first (`70_reset_and_hazards.md` R110, R113) -/
  responses : List Response
deriving DecidableEq, Repr

/-- Why the machine stops. -/
inductive Fault where
  /-- A command is presented, with `rst = 0`, while `ABORTED = 1`: it is not accepted and waits without end, and the unit
  "has no step except reset" (`60_exceptions.md` R94; `93_implementation_defined.md` U12: `stuck`). Raised by `accept`, for
  every command. Safe: the model stops where the hardware does nothing. -/
  | stuckAborted
deriving DecidableEq, Repr

/-- Why an instruction has no meaning. -/
inductive Refusal where
  /-- An instruction without a meaning, by its mnemonic. Raised by no arm of `exec`: every row has its meaning. Safe. -/
  | notModelled (mnemonic : String)
deriving DecidableEq, Repr

/-- Right after reset (`10_state.md` R19): `STATUS` is clear; the host has nothing to present yet and has captured
nothing (log entries 1 and 2). -/
def State.reset : State := { status := Status.reset, script := [], responses := [] }

end Sys2Proof.Machine
end

