-- ==== Sys2Proof/Machine/Ops.lean ====
section
/-! DEFINITION. The operations every meaning is made of: acceptance, `respond`, `raise Abort` (taking the unit's one
exception) and reset, its one return (`30_encoding.md` R34; `60_exceptions.md` R93 to R95; `70_reset_and_hazards.md` R105). -/

namespace Sys2Proof.Machine

/-- `STATUS` as one word of three bits: `STATUS[0] = ABORTED`, `STATUS[2:1] = ABORT_CODE` (`10_state.md` R14). -/
def Status.word (st : Status) : BitVec 3 := st.abortCode ++ BitVec.ofBool st.aborted

/-- A response seen as one 129-bit word, `RSP`: `flag ‖ value` (`30_encoding.md` R31). -/
def Response.word (r : Response) : BitVec 129 := BitVec.ofBool r.flag ++ r.value

/-- The code of a cause (`60_exceptions.md` R90): 1 `UNSUPPORTED_OPERATION`, 2 `ILLEGAL_OPERATION`; 0 is the value while
nothing aborted, and 3 is never written. -/
def AbortCause.code : AbortCause → BitVec 2
  | .unsupportedOperation => 1#2
  | .illegalOperation => 2#2

/-- A command is accepted only while `ABORTED = 0` (`30_encoding.md` R34). Presented to an aborted unit it has no step
(`60_exceptions.md` R94). -/
def accept (s : State) (k : State → Host.Outcome State Fault Refusal) : Host.Outcome State Fault Refusal :=
  if s.status.aborted then .fault .stuckAborted else k s

/-- The host captures a response (`70_reset_and_hazards.md` R110, R113). -/
def State.capture (s : State) (r : Response) : State := { s with responses := s.responses ++ [r] }

/-- `respond(value, flag)`: the command completes with a response; `STATUS` is unchanged (`30_encoding.md` R34). -/
def respond (value : U128) (flag : Bool) (s : State) : Host.Outcome State Fault Refusal :=
  accept s fun s => .next (s.capture { value := value, flag := flag })

/-- `raise Abort(code)`, the abort entry of `60_exceptions.md` R93: `ABORTED <- 1`, `ABORT_CODE <- code`, no response, "and
nothing else". No state is saved and control goes nowhere. -/
def raiseAbort (cause : AbortCause) (s : State) : Host.Outcome State Fault Refusal :=
  accept s fun s => .next { s with status := { aborted := true, abortCode := cause.code } }

/-- Reset: `ABORTED <- 0`, `ABORT_CODE <- 0` (`70_reset_and_hazards.md` R105). "The only way out" of the aborted state
(`60_exceptions.md` R95): there is no other return from the exception. -/
def State.applyReset (s : State) : State := { s with status := Status.reset }

end Sys2Proof.Machine
end

