-- ==== Sys2Proof/Machine/AddSub.lean ====
section
/-! DEFINITION. `ADD` and `SUB` (`41_add_sub.md`). The functions are the definitions of R50 and R51, computed exactly and
narrowed once; the limb structures are in `AdderStructures.lean`. -/

namespace Sys2Proof.Machine

/-- `u128_add(lhs, rhs) = (lhs + rhs) mod 2^128` (`41_add_sub.md` R50). -/
def u128Add (lhs rhs : U128) : U128 := BitVec.ofNat 128 (lhs.toNat + rhs.toNat)

/-- `u128_sub(lhs, rhs) = (lhs - rhs) mod 2^128` (R51). -/
def u128Sub (lhs rhs : U128) : U128 := BitVec.ofInt 128 ((lhs.toNat : Int) - (rhs.toNat : Int))

/-- `ADD`: `respond(u128_add(lhs, rhs), 0)` (`30_encoding.md` R34; R50). -/
def execAdd (lhs rhs : U128) (s : State) : Host.Outcome State Fault Refusal := respond (u128Add lhs rhs) false s

/-- `SUB`: `respond(u128_sub(lhs, rhs), 0)` (`30_encoding.md` R34; R51). -/
def execSub (lhs rhs : U128) (s : State) : Host.Outcome State Fault Refusal := respond (u128Sub lhs rhs) false s

end Sys2Proof.Machine
end

