-- ==== Sys2Proof/Machine/Operands.lean ====
section
/-! DEFINITION. The operand forms: the views of a value and its construction from narrower words (`40_representation.md`
R41 to R47; `30_encoding.md` R33). None is a command: in hardware each is a fixed choice of wires. An index is a constant of
the design, so its type is bounded: an index out of range has no meaning (R42, `93_implementation_defined.md` U6). -/

namespace Sys2Proof.Machine

/-- The most significant 64-bit half, `v[127:64]` (`40_representation.md` R41). -/
def hi (v : U128) : W64 := v.extractLsb' 64 64

/-- The least significant 64-bit half, `v[63:0]` (R41). -/
def lo (v : U128) : W64 := v.extractLsb' 0 64

/-- `be8(v, i) = v[127-8i : 120-8i]` (R42). -/
def be8 (v : U128) (i : Fin 16) : Byte := v.extractLsb' (120 - 8 * i.val) 8

/-- `be16(v, i) = v[127-16i : 112-16i]` (R42). -/
def be16 (v : U128) (i : Fin 8) : W16 := v.extractLsb' (112 - 16 * i.val) 16

/-- `be32(v, i) = v[127-32i : 96-32i]` (R42). -/
def be32 (v : U128) (i : Fin 4) : W32 := v.extractLsb' (96 - 32 * i.val) 32

/-- `be64(v, i) = v[127-64i : 64-64i]` (R42). -/
def be64 (v : U128) (i : Fin 2) : W64 := v.extractLsb' (64 - 64 * i.val) 64

/-- The weight index: limb `k` counted from the least significant end, `v[32k+31 : 32k]` (`00_scope.md` R6). -/
def w32 (v : U128) (k : Fin 4) : W32 := v.extractLsb' (32 * k.val) 32

/-- The weight index over halves, `v[64k+63 : 64k]` (`00_scope.md` R6). -/
def w64 (v : U128) (k : Fin 2) : W64 := v.extractLsb' (64 * k.val) 64

/-- Four 32-bit words, most significant first (`40_representation.md` R43). -/
def fromU32Be (i0 i1 i2 i3 : W32) : U128 := ((i0 ++ i1) ++ i2) ++ i3

/-- Two 64-bit words, most significant first (R44). -/
def fromU64Be (i0 i1 : W64) : U128 := i0 ++ i1

/-- A value from its four limbs, given most significant first, as the limb structures join them: `s[3] ‖ s[2] ‖ s[1] ‖ s[0]`
(`41_add_sub.md` R50). -/
def joinLimbs (s3 s2 s1 s0 : W32) : U128 := fromU32Be s3 s2 s1 s0

end Sys2Proof.Machine
end

