-- ==== Sys2Proof/Machine/Flags.lean ====
section
/-! DEFINITION. The comparators (`44_compare.md` R75 to R78) and the carry and borrow tests made of them
(`41_add_sub.md` R52). The unit has no flags register (`10_state.md` R13): these are combinational values inside one step. -/

namespace Sys2Proof.Machine

/-- The 32-bit comparator, equal: all 32 bits agree (`44_compare.md` R75). -/
def cmp32Eq (x y : W32) : Bool := decide (x = y)

/-- The 32-bit comparator, less-than: the numeric value of `x` is smaller (R75). -/
def cmp32Lt (x y : W32) : Bool := decide (x.toNat < y.toNat)

/-- The high 32 bits of a half, `x[63:32]` (R76). -/
def high32 (x : W64) : W32 := x.extractLsb' 32 32

/-- The low 32 bits of a half, `x[31:0]` (R76). -/
def low32 (x : W64) : W32 := x.extractLsb' 0 32

/-- The 64-bit comparator, equal (R76). -/
def cmp64Eq (x y : W64) : Bool := cmp32Eq (high32 x) (high32 y) && cmp32Eq (low32 x) (low32 y)

/-- The 64-bit comparator, less-than (R76). -/
def cmp64Lt (x y : W64) : Bool :=
  cmp32Lt (high32 x) (high32 y) || (cmp32Eq (high32 x) (high32 y) && cmp32Lt (low32 x) (low32 y))

/-- The 128-bit comparator, equal (R77). -/
def u128Eq (x y : U128) : Bool := cmp64Eq (hi x) (hi y) && cmp64Eq (lo x) (lo y)

/-- The 128-bit comparator, less-than: most significant half first (R78). -/
def u128Lt (x y : U128) : Bool :=
  cmp64Lt (hi x) (hi y) || (cmp64Eq (hi x) (hi y) && cmp64Lt (lo x) (lo y))

/-- The limb cascade of R78: the 128-bit less-than expanded to 32-bit limbs, from the most significant limb down. -/
def u128LtCascade (x y : U128) : Bool :=
  cmp32Lt (w32 x 3) (w32 y 3) || (cmp32Eq (w32 x 3) (w32 y 3) &&
    (cmp32Lt (w32 x 2) (w32 y 2) || (cmp32Eq (w32 x 2) (w32 y 2) &&
      (cmp32Lt (w32 x 1) (w32 y 1) || (cmp32Eq (w32 x 1) (w32 y 1) &&
        cmp32Lt (w32 x 0) (w32 y 0))))))

/-- The sum a unit of width `W` makes of two operands and a carry, `(x + y + cin) mod 2^W` (`41_add_sub.md` R52). -/
def sumWith {W : Nat} (x y : BitVec W) (cin : Bool) : BitVec W := BitVec.ofNat W (x.toNat + y.toNat + cin.toNat)

/-- The difference with a borrow, `(x - y - cin) mod 2^W` (R52). -/
def diffWith {W : Nat} (x y : BitVec W) (cin : Bool) : BitVec W :=
  BitVec.ofInt W ((x.toNat : Int) - (y.toNat : Int) - (cin.toNat : Int))

/-- `cout` at `W = 32`: `cmp32_lt(s, x) OR (cin AND cmp32_eq(s, x))` (R52). -/
def carryTest32 (x y : W32) (cin : Bool) : Bool :=
  cmp32Lt (sumWith x y cin) x || (cin && cmp32Eq (sumWith x y cin) x)

/-- `bout` at `W = 32`: `cmp32_lt(x, d) OR (cin AND cmp32_eq(d, x))` (R52). -/
def borrowTest32 (x y : W32) (cin : Bool) : Bool :=
  cmp32Lt x (diffWith x y cin) || (cin && cmp32Eq (diffWith x y cin) x)

/-- `cout` at `W = 64` (R52). -/
def carryTest64 (x y : W64) (cin : Bool) : Bool :=
  cmp64Lt (sumWith x y cin) x || (cin && cmp64Eq (sumWith x y cin) x)

/-- `bout` at `W = 64` (R52). -/
def borrowTest64 (x y : W64) (cin : Bool) : Bool :=
  cmp64Lt x (diffWith x y cin) || (cin && cmp64Eq (diffWith x y cin) x)

end Sys2Proof.Machine
end

