-- ==== Sys2Proof/Machine/Compare.lean ====
section
/-! DEFINITION. The six comparisons (`44_compare.md` R80 to R85), each defined directly by its pseudocode over the 128-bit
comparator of `Flags.lean`. -/

namespace Sys2Proof.Machine

/-- `EQ`: `respond(0, u128_eq(lhs, rhs))` (`44_compare.md` R80). -/
def execEq (lhs rhs : U128) (s : State) : Host.Outcome State Fault Refusal := respond 0 (u128Eq lhs rhs) s

/-- `NE`: `respond(0, NOT u128_eq(lhs, rhs))` (R81). -/
def execNe (lhs rhs : U128) (s : State) : Host.Outcome State Fault Refusal := respond 0 (!u128Eq lhs rhs) s

/-- `LT`: `respond(0, u128_lt(lhs, rhs))` (R82). -/
def execLt (lhs rhs : U128) (s : State) : Host.Outcome State Fault Refusal := respond 0 (u128Lt lhs rhs) s

/-- `LE`: `respond(0, u128_lt(lhs, rhs) OR u128_eq(lhs, rhs))` (R83). -/
def execLe (lhs rhs : U128) (s : State) : Host.Outcome State Fault Refusal :=
  respond 0 (u128Lt lhs rhs || u128Eq lhs rhs) s

/-- `GT`: `respond(0, u128_lt(rhs, lhs))` (R84). -/
def execGt (lhs rhs : U128) (s : State) : Host.Outcome State Fault Refusal := respond 0 (u128Lt rhs lhs) s

/-- `GE`: `respond(0, NOT u128_lt(lhs, rhs))` (R85). -/
def execGe (lhs rhs : U128) (s : State) : Host.Outcome State Fault Refusal := respond 0 (!u128Lt lhs rhs) s

end Sys2Proof.Machine
end

