-- ==== Sys2Proof/Machine/DivideModulo.lean ====
section
/-! DEFINITION. `DIV` and `MOD` (`43_divide_modulo.md`): the unit has no divider, so each takes the abort, for every pair of
operands. No quotient or remainder stands behind them (R73). -/

namespace Sys2Proof.Machine

/-- `DIV`: `raise Abort(UNSUPPORTED_OPERATION)`; the operands are ignored (`43_divide_modulo.md` R70). -/
def execDiv (_lhs _rhs : U128) (s : State) : Host.Outcome State Fault Refusal := raiseAbort .unsupportedOperation s

/-- `MOD`: `raise Abort(UNSUPPORTED_OPERATION)`; the operands are ignored (R71). -/
def execMod (_lhs _rhs : U128) (s : State) : Host.Outcome State Fault Refusal := raiseAbort .unsupportedOperation s

end Sys2Proof.Machine
end

