-- ==== Sys2Proof/Machine/Multiply.lean ====
section
/-! DEFINITION. `MUL` (`42_multiply.md`): the definition of R60; the limb algorithm is in `MultiplierStructure.lean`. -/

namespace Sys2Proof.Machine

/-- `u128_mul(lhs, rhs) = (lhs · rhs) mod 2^128` (`42_multiply.md` R60). -/
def u128Mul (lhs rhs : U128) : U128 := BitVec.ofNat 128 (lhs.toNat * rhs.toNat)

/-- `MUL`: `respond(u128_mul(lhs, rhs), 0)` (`30_encoding.md` R34; R60). -/
def execMul (lhs rhs : U128) (s : State) : Host.Outcome State Fault Refusal := respond (u128Mul lhs rhs) false s

end Sys2Proof.Machine
end

