-- ==== Sys2Proof/Machine/Reserved.lean ====
section
/-! DEFINITION. The five reserved values of `op` (`30_encoding.md` R35; `60_exceptions.md` R91): each takes the abort with
`ILLEGAL_OPERATION`, whatever its operands. -/

namespace Sys2Proof.Machine

/-- `op = 0x5` (`30_encoding.md` R35). -/
def execReserved5 (_lhs _rhs : U128) (s : State) : Host.Outcome State Fault Refusal := raiseAbort .illegalOperation s

/-- `op = 0x6` (R35). -/
def execReserved6 (_lhs _rhs : U128) (s : State) : Host.Outcome State Fault Refusal := raiseAbort .illegalOperation s

/-- `op = 0x7` (R35). -/
def execReserved7 (_lhs _rhs : U128) (s : State) : Host.Outcome State Fault Refusal := raiseAbort .illegalOperation s

/-- `op = 0xE` (R35). -/
def execReservedE (_lhs _rhs : U128) (s : State) : Host.Outcome State Fault Refusal := raiseAbort .illegalOperation s

/-- `op = 0xF` (R35). -/
def execReservedF (_lhs _rhs : U128) (s : State) : Host.Outcome State Fault Refusal := raiseAbort .illegalOperation s

end Sys2Proof.Machine
end

