-- ==== Sys2Proof/Machine/Dispatch.lean ====
section
/-! DEFINITION. One arm per constructor of `Instr`: the `case op of` of the step function of `30_encoding.md` R34. -/

namespace Sys2Proof.Machine

/-- The case analysis of `30_encoding.md` R34. -/
def exec (i : Instr) (s : State) : Host.Outcome State Fault Refusal :=
  match i with
  | .add lhs rhs => Sys2Proof.Machine.execAdd lhs rhs s
  | .sub lhs rhs => Sys2Proof.Machine.execSub lhs rhs s
  | .mul lhs rhs => Sys2Proof.Machine.execMul lhs rhs s
  | .div lhs rhs => Sys2Proof.Machine.execDiv lhs rhs s
  | .mod lhs rhs => Sys2Proof.Machine.execMod lhs rhs s
  | .reserved5 lhs rhs => Sys2Proof.Machine.execReserved5 lhs rhs s
  | .reserved6 lhs rhs => Sys2Proof.Machine.execReserved6 lhs rhs s
  | .reserved7 lhs rhs => Sys2Proof.Machine.execReserved7 lhs rhs s
  | .eq lhs rhs => Sys2Proof.Machine.execEq lhs rhs s
  | .ne lhs rhs => Sys2Proof.Machine.execNe lhs rhs s
  | .lt lhs rhs => Sys2Proof.Machine.execLt lhs rhs s
  | .le lhs rhs => Sys2Proof.Machine.execLe lhs rhs s
  | .gt lhs rhs => Sys2Proof.Machine.execGt lhs rhs s
  | .ge lhs rhs => Sys2Proof.Machine.execGe lhs rhs s
  | .reservedE lhs rhs => Sys2Proof.Machine.execReservedE lhs rhs s
  | .reservedF lhs rhs => Sys2Proof.Machine.execReservedF lhs rhs s

end Sys2Proof.Machine
end

