-- ==== Sys2Proof/Machine/Fetch.lean ====
section
/-! DEFINITION. What one host action does to the unit. The order inside a step is that of `60_exceptions.md` R97: reset
overrides everything, then the aborted state blocks acceptance (`accept`), then the command's `op` decides. -/

namespace Sys2Proof.Machine

/-- One host action taken by a state from whose script it has been removed. `rst = 1`: `STATUS` is cleared and the action's
command is not accepted (`70_reset_and_hazards.md` R105). No command: the unit is idle and keeps `STATUS` (`60_exceptions.md`
R102). A command: it is decoded and executed (`30_encoding.md` R34). -/
def takeAction (a : HostAction) (s : State) : Host.Outcome State Fault Refusal :=
  if a.rst then .next s.applyReset
  else match a.cmd with
    | none => .next s
    | some w => exec (decode w) s

/-- A host with no further action leaves the unit idle (`70_reset_and_hazards.md` R113: the unit "does not know that a run is
over"; log entry 3). -/
def idleForEver (s : State) : Host.Outcome State Fault Refusal := .next s

/-- The action of presenting one command, with `rst = 0`. -/
def HostAction.present (w : CmdWord) : HostAction := { rst := false, cmd := some w }

/-- The host presents the command word `w` next, before whatever it was to do (log entry 7). -/
def State.present (s : State) (w : CmdWord) : State := { s with script := HostAction.present w :: s.script }

end Sys2Proof.Machine
end

