-- ==== Sys2Proof/Machine/Step.lean ====
section
/-! DEFINITION. One step of the machine: the host's next action meets the unit (`00_scope.md` R9). -/

namespace Sys2Proof.Machine

/-- One step: the next action is removed from the host's script and taken. -/
def step (s : State) : Host.Outcome State Fault Refusal :=
  match s.script with
  | [] => idleForEver s
  | a :: rest => takeAction a { s with script := rest }

/-- The host presents the command word `w` next (log entry 7). `_nbits` is how many bits the opcode table gives the row; the
bits of the word above it are zero in `w` itself. -/
def State.withFetchWord (s : State) (_nbits w : Nat) : State := s.present (numberedWord w)

end Sys2Proof.Machine
end

