-- ==== Sys2Proof/Machine/AdderStructures.lean ====
section
/-! DEFINITION. The structures an adder and a subtractor may have (`41_add_sub.md` R50, R51, R53, R54; `70_reset_and_hazards.md`
R112). None is read by a meaning: R54 asks that the functions be defined arithmetically and the structures be proved equal
to them. -/

namespace Sys2Proof.Machine

/-- One limb of the ripple adder: `t = x + y + c` exactly, then `(t mod 2^32, floor(t / 2^32))` (`41_add_sub.md` R50). -/
def addLimb (x y : W32) (cin : Bool) : W32 × Bool :=
  (BitVec.ofNat 32 (x.toNat + y.toNat + cin.toNat), decide ((x.toNat + y.toNat + cin.toNat) / 2 ^ 32 = 1))

/-- One limb of the ripple subtractor: `t = x - y - b` exactly, then `(t mod 2^32, t < 0)` (R51). -/
def subLimb (x y : W32) (bin : Bool) : W32 × Bool :=
  (BitVec.ofInt 32 ((x.toNat : Int) - (y.toNat : Int) - (bin.toNat : Int)),
    decide ((x.toNat : Int) - (y.toNat : Int) - (bin.toNat : Int) < 0))

/-- What a limb structure leaves on its wires: the result and the four carries (or borrows) out of limbs 0 to 3. The last one
is discarded by the unit (`10_state.md` R13). -/
structure LimbTrace where
  value : U128
  c1    : Bool
  c2    : Bool
  c3    : Bool
  c4    : Bool
deriving DecidableEq, Repr

/-- A chain of four limbs in series, least significant first, with no carry into limb 0 (R50, R51). -/
def limbChain (limb : W32 → W32 → Bool → W32 × Bool) (lhs rhs : U128) : LimbTrace :=
  let r0 := limb (w32 lhs 0) (w32 rhs 0) false
  let r1 := limb (w32 lhs 1) (w32 rhs 1) r0.2
  let r2 := limb (w32 lhs 2) (w32 rhs 2) r1.2
  let r3 := limb (w32 lhs 3) (w32 rhs 3) r2.2
  { value := joinLimbs r3.1 r2.1 r1.1 r0.1, c1 := r0.2, c2 := r1.2, c3 := r2.2, c4 := r3.2 }

/-- The ripple adder over four 32-bit limbs (R50). -/
def rippleAdd (lhs rhs : U128) : LimbTrace := limbChain addLimb lhs rhs

/-- The ripple subtractor over four 32-bit limbs (R51). -/
def rippleSub (lhs rhs : U128) : LimbTrace := limbChain subLimb lhs rhs

/-- A limb formed for both values of its incoming carry, the right one then selected: the parallel arrangement R54 names. -/
def selectLimb (limb : W32 → W32 → Bool → W32 × Bool) (x y : W32) (cin : Bool) : W32 × Bool :=
  let whenClear := limb x y false
  let whenSet := limb x y true
  (bif cin then whenSet.1 else whenClear.1, bif cin then whenSet.2 else whenClear.2)

/-- The limb adder with a comparator for its carry (R52). -/
def addLimbByCompare (x y : W32) (cin : Bool) : W32 × Bool := (sumWith x y cin, carryTest32 x y cin)

/-- The limb subtractor with a comparator for its borrow (R52). -/
def subLimbByCompare (x y : W32) (bin : Bool) : W32 × Bool := (diffWith x y bin, borrowTest32 x y bin)

/-- The source's two-halves addition (R53). -/
def twoHalvesAdd (lhs rhs : U128) : U128 :=
  let low := lo lhs + lo rhs
  let high := hi lhs + hi rhs + BitVec.ofNat 64 (cmp64Lt low (lo lhs)).toNat
  high ++ low

/-- The source's two-halves subtraction (R53). -/
def twoHalvesSub (lhs rhs : U128) : U128 :=
  let low := lo lhs - lo rhs
  let high := hi lhs - hi rhs - BitVec.ofNat 64 (cmp64Lt (lo lhs) low).toNat
  high ++ low

/-- `ADD` as built by a strategy (R54): limbs in series, or each limb formed for both incoming carries. -/
def addBy (strategy : ImplStrategy) (lhs rhs : U128) : U128 :=
  match strategy with
  | .ripple => (rippleAdd lhs rhs).value
  | .parallel => (limbChain (selectLimb addLimb) lhs rhs).value

/-- `SUB` as built by a strategy (R54). -/
def subBy (strategy : ImplStrategy) (lhs rhs : U128) : U128 :=
  match strategy with
  | .ripple => (rippleSub lhs rhs).value
  | .parallel => (limbChain (selectLimb subLimb) lhs rhs).value

end Sys2Proof.Machine
end

