-- ==== Sys2Proof/Machine/Image.lean ====
section
/-! DEFINITION. The 16-byte memory image of a value in the HOST's memory (`20_memory.md` R21), for both settings of the OPEN
parameter `HOST_ENDIAN`. The unit's ports never carry it and no operation reads it (R20). -/

namespace Sys2Proof.Machine

/-- The physical index of big-endian index `i` among `n` units: the same on a big-endian host, "the opposite end of the
physical array" on a little-endian one (R21). -/
def physicalIndex {n : Nat} (e : HostEndian) (i : Fin n) : Fin n :=
  match e with
  | .big => i
  | .little => i.rev

/-- The sixteen bytes at increasing addresses (R21). -/
def memImage (e : HostEndian) (v : U128) : Vector Byte 16 := Vector.ofFn fun k => be8 v (physicalIndex e k)

/-- The host's physical array of eight 16-bit elements (R21). -/
def physical16 (e : HostEndian) (v : U128) : Vector W16 8 := Vector.ofFn fun k => be16 v (physicalIndex e k)

/-- The host's physical array of four 32-bit elements (R21). -/
def physical32 (e : HostEndian) (v : U128) : Vector W32 4 := Vector.ofFn fun k => be32 v (physicalIndex e k)

/-- The host's physical array of two 64-bit elements (R21). -/
def physical64 (e : HostEndian) (v : U128) : Vector W64 2 := Vector.ofFn fun k => be64 v (physicalIndex e k)

/-- A 16-bit element read in the host's own byte order from the bytes at `2k, 2k+1` of an image (R21). -/
def readElement16 (e : HostEndian) (m : Vector Byte 16) (k : Fin 8) : W16 :=
  let b (j : Fin 2) : Byte := m[2 * k.val + j.val]
  match e with
  | .big => b 0 ++ b 1
  | .little => b 1 ++ b 0

/-- A 32-bit element read in the host's own byte order from the bytes at `4k .. 4k+3` of an image (R21). -/
def readElement32 (e : HostEndian) (m : Vector Byte 16) (k : Fin 4) : W32 :=
  let b (j : Fin 4) : Byte := m[4 * k.val + j.val]
  match e with
  | .big => ((b 0 ++ b 1) ++ b 2) ++ b 3
  | .little => ((b 3 ++ b 2) ++ b 1) ++ b 0

/-- A 64-bit element read in the host's own byte order from the bytes at `8k .. 8k+7` of an image (R21). -/
def readElement64 (e : HostEndian) (m : Vector Byte 16) (k : Fin 2) : W64 :=
  let b (j : Fin 8) : Byte := m[8 * k.val + j.val]
  match e with
  | .big => ((((((b 0 ++ b 1) ++ b 2) ++ b 3) ++ b 4) ++ b 5) ++ b 6) ++ b 7
  | .little => ((((((b 7 ++ b 6) ++ b 5) ++ b 4) ++ b 3) ++ b 2) ++ b 1) ++ b 0

end Sys2Proof.Machine
end

