-- ==== Sys2Proof/Machine/Ports.lean ====
section
/-! DEFINITION. The unit at its ports, one clock cycle at a time, with the reference timing `LATENCY = 0` (`30_encoding.md`
R30; `60_exceptions.md` R93, R94; `70_reset_and_hazards.md` R105, R110). It calls the same `decode` and `exec` as the
command-level step, and "adds nothing a program can observe beyond it" (`00_scope.md` R9). -/

namespace Sys2Proof.Machine

/-- The input ports of one cycle (`30_encoding.md` R30). -/
structure PortIn where
  rst      : Bool
  cmdValid : Bool
  cmdOp    : OpSel
  cmdLhs   : U128
  cmdRhs   : U128
deriving DecidableEq, Repr

/-- The output ports of one cycle (`30_encoding.md` R30). -/
structure PortOut where
  cmdReady  : Bool
  rspValid  : Bool
  rspValue  : U128
  rspFlag   : Bool
  abort     : Bool
  abortCode : BitVec 2
deriving DecidableEq, Repr

/-- The command word on the ports (`30_encoding.md` R31). -/
def PortIn.word (p : PortIn) : CmdWord := commandWord p.cmdOp p.cmdLhs p.cmdRhs

/-- The ports seen as a host action of the command level: with `cmd_valid = 0` the command ports are ignored (R30). -/
def PortIn.action (p : PortIn) : HostAction :=
  { rst := p.rst, cmd := if p.cmdValid then some p.word else none }

/-- `cmd_ready = (rst == 0) AND (ABORTED == 0)` (`30_encoding.md` R30). -/
def cmdReady (st : Status) (rst : Bool) : Bool := !rst && !st.aborted

/-- The output ports while the state is `st`: a response or none, all response outputs 0 when there is none; `abort` and
`abort_code` follow `STATUS` (R30). -/
def portsOut (st : Status) (ready : Bool) (rsp : Option Response) : PortOut :=
  { cmdReady := ready
    rspValid := rsp.isSome
    rspValue := (rsp.map Response.value).getD 0
    rspFlag := (rsp.map Response.flag).getD false
    abort := st.aborted
    abortCode := st.abortCode }

/-- What a command does to `STATUS` and the response it gets, if any: `exec` seen from the ports (`30_encoding.md` R34). A
command that has no step leaves `STATUS` and gets no response (`60_exceptions.md` R94). -/
def perform (st : Status) (w : CmdWord) : Status × Option Response :=
  match exec (decode w) { status := st, script := [], responses := [] } with
  | .next t => (t.status, t.responses.head?)
  | .fault _ => (st, none)
  | .refused _ => (st, none)

/-- One cycle of the reference (`30_encoding.md` R30): the state after the rising edge that ends the cycle, and the outputs
during it. `rst = 1` overrides everything (`60_exceptions.md` R97). -/
def cycle (st : Status) (p : PortIn) : Status × PortOut :=
  if p.rst then (Status.reset, portsOut st false none)
  else if p.cmdValid && cmdReady st p.rst then
    ((perform st p.word).1, portsOut st true (perform st p.word).2)
  else (st, portsOut st (cmdReady st p.rst) none)

/-- The commands given to a unit in order, and what comes of them: the final `STATUS` and the responses, in order
(`20_memory.md` R25; `70_reset_and_hazards.md` R113). -/
def performAll (st : Status) : List CmdWord → Status × List Response
  | [] => (st, [])
  | w :: ws => ((performAll (perform st w).1 ws).1, (perform st w).2.toList ++ (performAll (perform st w).1 ws).2)

/-- A sequence of cycles: the final `STATUS` and the outputs of each cycle. -/
def cycles (st : Status) : List PortIn → Status × List PortOut
  | [] => (st, [])
  | p :: ps => ((cycles (cycle st p).1 ps).1, (cycle st p).2 :: (cycles (cycle st p).1 ps).2)

/-- The responses on the ports of a sequence of cycles, in order: each is present for the one cycle in which
`rsp_valid = 1` (`70_reset_and_hazards.md` R110). -/
def responsesOf (outs : List PortOut) : List Response :=
  outs.filterMap fun o => if o.rspValid then some { value := o.rspValue, flag := o.rspFlag } else none

/-- The commands accepted in a sequence of cycles: `rst = 0`, `cmd_valid = 1` and `cmd_ready = 1` (`30_encoding.md` R30). -/
def acceptedOf (ins : List PortIn) (outs : List PortOut) : List CmdWord :=
  (ins.zip outs).filterMap fun c => if !c.1.rst && c.1.cmdValid && c.2.cmdReady then some c.1.word else none

end Sys2Proof.Machine
end

