-- ==== Sys2Proof/Machine/Latency.lean ====
section
/-! DEFINITION. An implementation of the unit that takes `LATENCY(op)` cycles for a command and holds `cmd_ready` low while
busy (`70_reset_and_hazards.md` R111; `LATENCY` is OPEN, `00_scope.md` R5, so it is an argument). What it holds in flight is
not architectural (`10_state.md` R18). R111 says nothing of a reset while a command is in flight: here the command is dropped
without a response (DESIGN CHOICE, log entry 6). -/

namespace Sys2Proof.Machine

/-- A unit that may be busy: `STATUS`, and the command in flight with the cycles it still waits before the cycle that
completes it. -/
structure BusyUnit where
  status   : Status
  inFlight : Option (Nat × CmdWord)
deriving DecidableEq, Repr

/-- The unit after reset: nothing in flight. -/
def BusyUnit.reset : BusyUnit := { status := Status.reset, inFlight := none }

/-- One cycle of an implementation with the given latencies: a command accepted in cycle `t` is completed in cycle
`t + LATENCY(op)` (`70_reset_and_hazards.md` R111). -/
def busyCycle (latency : OpSel → Nat) (u : BusyUnit) (p : PortIn) : BusyUnit × PortOut :=
  if p.rst then (BusyUnit.reset, portsOut u.status false none)
  else match u.inFlight with
    | some (0, w) =>
      ({ status := (perform u.status w).1, inFlight := none }, portsOut u.status false (perform u.status w).2)
    | some (k + 1, w) => ({ u with inFlight := some (k, w) }, portsOut u.status false none)
    | none =>
      if p.cmdValid && cmdReady u.status p.rst then
        match latency p.cmdOp with
        | 0 =>
          ({ status := (perform u.status p.word).1, inFlight := none },
            portsOut u.status true (perform u.status p.word).2)
        | n + 1 => ({ u with inFlight := some (n, p.word) }, portsOut u.status true none)
      else (u, portsOut u.status (cmdReady u.status p.rst) none)

/-- A sequence of cycles of such an implementation: the final unit and the outputs of each cycle. -/
def busyCycles (latency : OpSel → Nat) (u : BusyUnit) : List PortIn → BusyUnit × List PortOut
  | [] => (u, [])
  | p :: ps =>
    ((busyCycles latency (busyCycle latency u p).1 ps).1,
      (busyCycle latency u p).2 :: (busyCycles latency (busyCycle latency u p).1 ps).2)

end Sys2Proof.Machine
end

