-- ==== Sys2Proof/Machine/MultiplierStructure.lean ====
section
/-! DEFINITION. The limb algorithm of the multiplier (`42_multiply.md` R61 to R65, R67): the ten partial products that the
selection criterion keeps (`90_conflicts.md` C2: not the source's printed list), summed in four 32-bit columns. No meaning
reads it: R65 asks that `u128_mul` be defined by R60 and the columns be proved equal to it. -/

namespace Sys2Proof.Machine

/-- `P[i][j] = w32(lhs, i) · w32(rhs, j)`, a 64-bit value (`42_multiply.md` R61). -/
def partialProduct (lhs rhs : U128) (i j : Fin 4) : W64 := BitVec.ofNat 64 ((w32 lhs i).toNat * (w32 rhs j).toNat)

/-- `lo32(P) = P mod 2^32` (R61). -/
def lo32 (p : W64) : Nat := p.toNat % 2 ^ 32

/-- `hi32(P) = floor(P / 2^32)` (R61). -/
def hi32 (p : W64) : Nat := p.toNat / 2 ^ 32

/-- The sixteen limb pairs (R63). -/
def limbPairs : List (Fin 4 × Fin 4) :=
  [(0, 0), (0, 1), (0, 2), (0, 3), (1, 0), (1, 1), (1, 2), (1, 3),
   (2, 0), (2, 1), (2, 2), (2, 3), (3, 0), (3, 1), (3, 2), (3, 3)]

/-- The ten pairs kept: those whose weight is below bit 128, `i + j <= 3` (R61). -/
def keptPairs : List (Fin 4 × Fin 4) := limbPairs.filter fun p => decide (p.1.val + p.2.val ≤ 3)

/-- The six pairs discarded as pure overflow, `i + j >= 4` (R63). -/
def discardedPairs : List (Fin 4 × Fin 4) := limbPairs.filter fun p => decide (4 ≤ p.1.val + p.2.val)

/-- The four column sums (R62). -/
structure MulColumns where
  s0 : Nat
  s1 : Nat
  s2 : Nat
  s3 : Nat
deriving DecidableEq, Repr

/-- `k1`, the carry from column 1 into column 2 (R62). -/
def MulColumns.k1 (m : MulColumns) : Nat := m.s1 / 2 ^ 32

/-- `k2`, the carry from column 2 into column 3 (R62). -/
def MulColumns.k2 (m : MulColumns) : Nat := m.s2 / 2 ^ 32

/-- The running sums of R62, least significant column first. -/
def mulColumns (lhs rhs : U128) : MulColumns :=
  let P := partialProduct lhs rhs
  let s0 := lo32 (P 0 0)
  let s1 := s0 / 2 ^ 32 + hi32 (P 0 0) + lo32 (P 1 0) + lo32 (P 0 1)
  let s2 := s1 / 2 ^ 32 + hi32 (P 1 0) + hi32 (P 0 1) + lo32 (P 2 0) + lo32 (P 1 1) + lo32 (P 0 2)
  let s3 := s2 / 2 ^ 32 + hi32 (P 2 0) + hi32 (P 1 1) + hi32 (P 0 2)
    + lo32 (P 3 0) + lo32 (P 2 1) + lo32 (P 1 2) + lo32 (P 0 3)
  { s0 := s0, s1 := s1, s2 := s2, s3 := s3 }

/-- `r3 ‖ r2 ‖ r1 ‖ r0` with `rn = Sn mod 2^32` (R62). -/
def MulColumns.value (m : MulColumns) : U128 :=
  joinLimbs (BitVec.ofNat 32 m.s3) (BitVec.ofNat 32 m.s2) (BitVec.ofNat 32 m.s1) (BitVec.ofNat 32 m.s0)

/-- All kept products summed at once, each at its weight, what exceeds bit 127 dropped: the array arrangement of R67. -/
def mulArray (lhs rhs : U128) : U128 :=
  BitVec.ofNat 128 ((keptPairs.map fun p => (partialProduct lhs rhs p.1 p.2).toNat * 2 ^ (32 * (p.1.val + p.2.val))).sum)

/-- `MUL` as built by a strategy (R67): sequential columns, or an array that sums all pieces at once. -/
def mulBy (strategy : ImplStrategy) (lhs rhs : U128) : U128 :=
  match strategy with
  | .ripple => (mulColumns lhs rhs).value
  | .parallel => mulArray lhs rhs

end Sys2Proof.Machine
end

