-- ==== Sys2Proof/Machine/Platform.lean ====
section
/-! DEFINITION. Several units (`60_exceptions.md` R101; `20_memory.md` R25): each has its own state and its own host stream,
and they share nothing. Which unit moves next is the platform's affair, so it is an argument. -/

namespace Sys2Proof.Machine

/-- A step of unit `k` of a platform: the other units keep their state (`60_exceptions.md` R101). A stop of one unit leaves
the platform as it was. -/
def stepUnit (k : Nat) (units : List State) : List State :=
  match units[k]? with
  | none => units
  | some s =>
    match step s with
    | .next s' => units.set k s'
    | .fault _ => units
    | .refused _ => units

end Sys2Proof.Machine
end

