-- ==== Sys2Proof/Machine/Script.lean ====
section
/-! DEFINITION. What a command script does (`30_encoding.md` R36): each line is assembled to a command word, with the HOST
replacing `%label` by the value it kept (`10_state.md` R11), and presented to the unit. -/

namespace Sys2Proof.Machine

/-- The 128 bits an operand form stands for, given the values the host kept under labels; none where the label has no
value (`30_encoding.md` R36). -/
def operandValue (kept : List (String × U128)) : ScriptOperand → Option U128
  | .hex128 v => some v
  | .u64be i0 i1 => some (fromU64Be i0 i1)
  | .u32be i0 i1 i2 i3 => some (fromU32Be i0 i1 i2 i3)
  | .ref label => kept.lookup label

/-- A line as a 260-bit command word (`30_encoding.md` R36). -/
def assemble (kept : List (String × U128)) (line : ScriptLine) : Option CmdWord :=
  match operandValue kept line.lhs, operandValue kept line.rhs with
  | some l, some r => some (encode (line.mnemonic.command l r))
  | _, _ => none

/-- How a script ends. -/
inductive ScriptEnd where
  /-- the host has no further line (`70_reset_and_hazards.md` R113), also when the last line aborted (log entry 16) -/
  | finished
  /-- a line was presented to an aborted unit, which never accepts it (`60_exceptions.md` R94) -/
  | stuck
  /-- a line refers to a label without a value: the script has no meaning from there on (`30_encoding.md` R36) -/
  | noMeaning
deriving DecidableEq, Repr

/-- The result of a script: the responses in order, the final `STATUS` (`30_encoding.md` R36), and how it ended. -/
structure ScriptResult where
  responses : List Response
  status    : Status
  ending    : ScriptEnd
deriving DecidableEq, Repr

/-- The host keeps the value of a response under the line's label, if both exist (`30_encoding.md` R36). -/
def keepLabel (kept : List (String × U128)) (label : Option String) (rsp : Option Response) : List (String × U128) :=
  match label, rsp with
  | some name, some r => (name, r.value) :: kept
  | _, _ => kept

/-- The lines of a script executed in order from a given `STATUS` and kept values (`30_encoding.md` R36). A script whose last
line aborts ends as `finished` with `ABORTED = 1` in the final `STATUS`: DEDUCED (log entry 16), R113 ("ends when the host has
no further command") read against R94 ("never final"). After an abort with lines left it ends as `stuck` or `noMeaning` (log
entry 15). -/
def runScript (kept : List (String × U128)) (st : Status) : List ScriptLine → ScriptResult
  | [] => { responses := [], status := st, ending := .finished }
  | line :: rest =>
    match assemble kept line with
    | none => { responses := [], status := st, ending := .noMeaning }
    | some w =>
      if st.aborted then { responses := [], status := st, ending := .stuck }
      else
        let done := perform st w
        let after := runScript (keepLabel kept line.label done.2) done.1 rest
        { after with responses := done.2.toList ++ after.responses }

end Sys2Proof.Machine
end

