-- ==== Sys2Proof/Machine/ScriptText.lean ====
section
/-! DEFINITION. The written form of a command script (`30_encoding.md` R36): a line of text read as a `ScriptLine`, by the
grammar of R36, and a command word written as its 65 hexadecimal digits. A text is a list of characters. What R36 leaves
unsaid of the text (blanks, the characters of a label, `hex64` and `hex32`) is log entry 10. -/

namespace Sys2Proof.Machine

/-- The value of a hexadecimal digit, in either case. -/
def hexDigit (c : Char) : Option Nat :=
  if '0'.toNat ≤ c.toNat ∧ c.toNat ≤ '9'.toNat then some (c.toNat - '0'.toNat)
  else if 'A'.toNat ≤ c.toNat ∧ c.toNat ≤ 'F'.toNat then some (c.toNat - 'A'.toNat + 10)
  else if 'a'.toNat ≤ c.toNat ∧ c.toNat ≤ 'f'.toNat then some (c.toNat - 'a'.toNat + 10)
  else none

/-- The hexadecimal digits of a number literal after its `0x`: at least one digit, and each `_` stands between two digits
(`30_encoding.md` R36). `afterDigit` says that the character before was a digit. -/
def readDigits (afterDigit : Bool) : List Char → Option (List Nat)
  | [] => if afterDigit then some [] else none
  | c :: cs =>
    if c = '_' then (if afterDigit then readDigits false cs else none)
    else match hexDigit c with
      | none => none
      | some d => (readDigits true cs).map (d :: ·)

/-- The number a list of hexadecimal digits stands for, most significant first. -/
def digitsValue (ds : List Nat) : Nat := ds.foldl (fun acc d => acc * 16 + d) 0

/-- `hex128`, `hex64` and `hex32`: `0x` followed by 1 to `most` hexadecimal digits, 32, 16 or 8 of them at most
(`30_encoding.md` R36; the last two are log entry 10). -/
def readHex (most : Nat) : List Char → Option Nat
  | '0' :: 'x' :: cs =>
    match readDigits false cs with
    | some ds => if ds.length ≤ most then some (digitsValue ds) else none
    | none => none
  | _ => none

/-- A token of a line: a run of letters, digits and `_`, or one other character. -/
inductive Token where
  | word (cs : List Char)
  | mark (c : Char)
deriving DecidableEq, Repr

/-- The characters of words: a label, a mnemonic, a number literal. -/
def isWordChar (c : Char) : Bool := c.isAlphanum || c == '_'

/-- A finished run of word characters, if there is one, put before the tokens that follow it. -/
def closeWord (run : List Char) (after : List Token) : List Token :=
  if run.isEmpty then after else .word run :: after

/-- The tokens of a text, less the run of word characters it begins with, which comes first. -/
def scan : List Char → List Char × List Token
  | [] => ([], [])
  | c :: cs =>
    if isWordChar c then (c :: (scan cs).1, (scan cs).2)
    else ([], (if c = ' ' then [] else [.mark c]) ++ closeWord (scan cs).1 (scan cs).2)

/-- The tokens of a text; blanks only separate them. -/
def tokens (text : List Char) : List Token := closeWord (scan text).1 (scan text).2

/-- A label: a word that begins with a letter (log entry 10). -/
def readLabel : List Char → Option String
  | c :: cs => if c.isAlpha then some (String.ofList (c :: cs)) else none
  | [] => none

/-- The mnemonics of `30_encoding.md` R36. -/
def readMnemonic : List Char → Option Mnemonic
  | ['A', 'D', 'D'] => some .ADD
  | ['S', 'U', 'B'] => some .SUB
  | ['M', 'U', 'L'] => some .MUL
  | ['D', 'I', 'V'] => some .DIV
  | ['M', 'O', 'D'] => some .MOD
  | ['E', 'Q'] => some .EQ
  | ['N', 'E'] => some .NE
  | ['L', 'T'] => some .LT
  | ['L', 'E'] => some .LE
  | ['G', 'T'] => some .GT
  | ['G', 'E'] => some .GE
  | _ => none

/-- An operand at the head of the tokens, and the tokens after it (`30_encoding.md` R36). -/
def readOperand : List Token → Option (ScriptOperand × List Token)
  | .mark '%' :: .word label :: rest => (readLabel label).map fun l => (.ref l, rest)
  | .word ['u', '6', '4', 'b', 'e'] :: .mark '(' :: .word a :: .mark ',' :: .word b :: .mark ')' :: rest =>
    match readHex 16 a, readHex 16 b with
    | some i0, some i1 => some (.u64be (BitVec.ofNat 64 i0) (BitVec.ofNat 64 i1), rest)
    | _, _ => none
  | .word ['u', '3', '2', 'b', 'e'] :: .mark '(' :: .word a :: .mark ',' :: .word b :: .mark ',' :: .word c :: .mark ','
      :: .word d :: .mark ')' :: rest =>
    match readHex 8 a, readHex 8 b, readHex 8 c, readHex 8 d with
    | some i0, some i1, some i2, some i3 =>
      some (.u32be (BitVec.ofNat 32 i0) (BitVec.ofNat 32 i1) (BitVec.ofNat 32 i2) (BitVec.ofNat 32 i3), rest)
    | _, _, _, _ => none
  | .word v :: rest => (readHex 32 v).map fun n => (.hex128 (BitVec.ofNat 128 n), rest)
  | _ => none

/-- `MNEMONIC operand "," operand`, to the end of the line (`30_encoding.md` R36). -/
def readCommand (label : Option String) : List Token → Option ScriptLine
  | .word m :: rest =>
    match readMnemonic m, readOperand rest with
    | some mnemonic, some (l, .mark ',' :: rest') =>
      match readOperand rest' with
      | some (r, []) => some { label := label, mnemonic := mnemonic, lhs := l, rhs := r }
      | _ => none
    | _, _ => none
  | _ => none

/-- A line of text (`30_encoding.md` R36). -/
def readLine (text : List Char) : Option ScriptLine :=
  match tokens text with
  | .word label :: .mark '=' :: rest =>
    match readLabel label with
    | some l => readCommand (some l) rest
    | none => none
  | ts => readCommand none ts

/-- A script: its lines of text read one by one, none unreadable (`30_encoding.md` R36). -/
def readScript (texts : List (List Char)) : Option (List ScriptLine) := texts.mapM readLine

/-- A script as text, executed "in order from the reset state" (`30_encoding.md` R36). -/
def runText (texts : List (List Char)) : Option ScriptResult := (readScript texts).map (runScript [] Status.reset)

/-- The hexadecimal digit for a value below 16, as the spec writes encodings: upper case. -/
def hexChar (d : Nat) : Char := if d < 10 then Char.ofNat ('0'.toNat + d) else Char.ofNat ('A'.toNat + (d - 10))

/-- A number as `n` hexadecimal digits, most significant first. -/
def hexText : Nat → Nat → List Char
  | 0, _ => []
  | n + 1, v => hexText n (v / 16) ++ [hexChar (v % 16)]

/-- A command word as text: "one hexadecimal digit of `op`, then 32 digits of `lhs`, then 32 digits of `rhs`"
(`30_encoding.md` R36). -/
def wordText (w : CmdWord) : List Char :=
  hexText 1 (opField w).toNat ++ hexText 32 (lhsField w).toNat ++ hexText 32 (rhsField w).toNat

/-- A mnemonic as text (`30_encoding.md` R36). -/
def mnemonicText : Mnemonic → List Char
  | .ADD => ['A', 'D', 'D']
  | .SUB => ['S', 'U', 'B']
  | .MUL => ['M', 'U', 'L']
  | .DIV => ['D', 'I', 'V']
  | .MOD => ['M', 'O', 'D']
  | .EQ => ['E', 'Q']
  | .NE => ['N', 'E']
  | .LT => ['L', 'T']
  | .LE => ['L', 'E']
  | .GT => ['G', 'T']
  | .GE => ['G', 'E']

/-- A value as `hex128` text, all 32 digits written (`30_encoding.md` R36). -/
def hex128Text (v : U128) : List Char := '0' :: 'x' :: hexText 32 v.toNat

/-- A command as a line without a label, as the spec writes lines: `ADD 0x..., 0x...` (`30_encoding.md` R36). -/
def commandText (m : Mnemonic) (l r : U128) : List Char :=
  mnemonicText m ++ ' ' :: (hex128Text l ++ ',' :: ' ' :: hex128Text r)

end Sys2Proof.Machine
end

