-- ==== Sys2Proof/Safety.lean ====
section
/-! DEFINITION. What claims are stated in: the numeric contract of each command, a run, a run that has gone wrong
(`70_reset_and_hazards.md` R113), and the invariant of `STATUS` (`10_state.md` R14). -/

namespace Sys2Proof.Safety

open Sys2Proof.Machine

/-- What a command comes to: a response or an abort (`30_encoding.md` R34). -/
inductive CommandOutcome where
  | responds (r : Response)
  | aborts (c : AbortCause)
deriving DecidableEq, Repr

/-- The outcome of a command on a running unit as the spec's tables give it, in numbers and without the structure of the unit:
the `case op of` of `30_encoding.md` R34 with the column "outcome" of `spec/opcode_table.json`. -/
def outcomeOf (op : OpSel) (l r : U128) : CommandOutcome :=
  match op.toNat with
  | 0x0 => .responds { value := BitVec.ofNat 128 ((l.toNat + r.toNat) % 2 ^ 128), flag := false }
  | 0x1 => .responds { value := BitVec.ofNat 128 ((2 ^ 128 + l.toNat - r.toNat) % 2 ^ 128), flag := false }
  | 0x2 => .responds { value := BitVec.ofNat 128 ((l.toNat * r.toNat) % 2 ^ 128), flag := false }
  | 0x3 => .aborts .unsupportedOperation
  | 0x4 => .aborts .unsupportedOperation
  | 0x8 => .responds { value := 0, flag := decide (l.toNat = r.toNat) }
  | 0x9 => .responds { value := 0, flag := decide (l.toNat ≠ r.toNat) }
  | 0xA => .responds { value := 0, flag := decide (l.toNat < r.toNat) }
  | 0xB => .responds { value := 0, flag := decide (l.toNat ≤ r.toNat) }
  | 0xC => .responds { value := 0, flag := decide (r.toNat < l.toNat) }
  | 0xD => .responds { value := 0, flag := decide (r.toNat ≤ l.toNat) }
  | _ => .aborts .illegalOperation

/-- The response the tables give a command, if it does not abort. -/
def contract (i : Instr) : Option Response :=
  match outcomeOf i.op i.lhs i.rhs with
  | .responds r => some r
  | .aborts _ => none

/-- The cause with which a command aborts, if it does (`60_exceptions.md` R90). -/
def abortCause (i : Instr) : Option AbortCause :=
  match outcomeOf i.op i.lhs i.rhs with
  | .responds _ => none
  | .aborts c => some c

/-- The response a command gets from the machine right after reset, if it gets one. -/
def responseOf (i : Instr) : Option Response :=
  match exec i State.reset with
  | .next t => t.responses.head?
  | .fault _ | .refused _ => none

/-- "each name standing for the `flag` of the command" (`44_compare.md` R86): the flag the machine answers, 0 if there is no
response (`30_encoding.md` R30). -/
def flagOf (i : Instr) : Bool := ((responseOf i).map Response.flag).getD false

/-- The value the machine answers to a command, 0 if there is no response. -/
def valueOf (i : Instr) : U128 := ((responseOf i).map Response.value).getD 0

/-- The unit after reset with a host that will present these commands in order, one a step: the start of a run
(`70_reset_and_hazards.md` R113; `30_encoding.md` R36). -/
def boot (ws : List CmdWord) : State := { State.reset with script := ws.map HostAction.present }

/-- `k` steps lead from `s` to `t`. -/
def Reaches (s : State) (k : Nat) (t : State) : Prop := Sys2Proof.core.run k s = .next t

/-- A run that ends in `t` has gone wrong when its final `ABORTED` is 1 (`70_reset_and_hazards.md` R113). -/
def goneWrong (t : State) : Bool := t.status.aborted

/-- The invariant of `STATUS`: `ABORTED = 0` exactly when `ABORT_CODE = 0`, and code 3 is never written
(`10_state.md` R14). -/
def StatusInv (st : Status) : Prop := (st.aborted = false ↔ st.abortCode = 0#2) ∧ st.abortCode ≠ 3#2

end Sys2Proof.Safety
end

