-- ==== Sys2Proof/Certificates/Slice0/Obligations.lean ====
section
/-! DEFINITION. The statements for the provers, in the order of `OBLIGATIONS.json`. That the host's actions stand in
`script` and every captured response in `responses` is the model's choice (log entries 1 and 2) wherever a statement speaks of
these two fields. -/

open Sys2Proof Sys2Proof.Machine Sys2Proof.Safety

/-! ### Encoding (`30_encoding.md`) -/

/-- Decoding the encoded word of any command gives that command back (R31, R32, R39): no bit of an encoding is dropped. -/
def Obligations.DecodeOfEncodeIsTheCommand : Prop := ∀ i : Instr, decode (encode i) = i

/-- Each of the `2^260` command words is the encoding of the command it decodes to: one word, one meaning (R31, R32; R104). -/
def Obligations.EncodeOfDecodeIsTheWord : Prop := ∀ w : CmdWord, encode (decode w) = w

/-- R31: the command word is `op ‖ lhs ‖ rhs` with `op` in bits 259 to 256, `lhs` in 255 to 128, `rhs` in 127 to 0, and the
response word is `flag ‖ value` with `flag` in bit 128 and `value` in 127 to 0. -/
def Obligations.FormatsPlaceTheirFields : Prop :=
  (∀ op lhs rhs, (commandWord op lhs rhs).toNat = op.toNat * 2 ^ 256 + lhs.toNat * 2 ^ 128 + rhs.toNat ∧
    opField (commandWord op lhs rhs) = op ∧ lhsField (commandWord op lhs rhs) = lhs ∧
    rhsField (commandWord op lhs rhs) = rhs) ∧
  (∀ i : Instr, encode i = commandWord i.op i.lhs i.rhs) ∧
  (∀ r : Response, r.word.toNat = r.flag.toNat * 2 ^ 128 + r.value.toNat)

/-- The operation map of R32 and R35, for all operands: `op` alone selects, and the operands are taken as they stand (R33). -/
def Obligations.OperationMapReadsOpAlone : Prop :=
  ∀ l r : U128,
    decode (commandWord 0x0 l r) = .add l r ∧ decode (commandWord 0x1 l r) = .sub l r ∧
    decode (commandWord 0x2 l r) = .mul l r ∧ decode (commandWord 0x3 l r) = .div l r ∧
    decode (commandWord 0x4 l r) = .mod l r ∧ decode (commandWord 0x5 l r) = .reserved5 l r ∧
    decode (commandWord 0x6 l r) = .reserved6 l r ∧ decode (commandWord 0x7 l r) = .reserved7 l r ∧
    decode (commandWord 0x8 l r) = .eq l r ∧ decode (commandWord 0x9 l r) = .ne l r ∧
    decode (commandWord 0xA l r) = .lt l r ∧ decode (commandWord 0xB l r) = .le l r ∧
    decode (commandWord 0xC l r) = .gt l r ∧ decode (commandWord 0xD l r) = .ge l r ∧
    decode (commandWord 0xE l r) = .reservedE l r ∧ decode (commandWord 0xF l r) = .reservedF l r

/-- Words written out in the spec (`95_test_vectors.md` A7, S7, M11, X1, X2, X7, Q8) decode to the commands they stand for,
read through the table's numbering. -/
def Obligations.WordsOfTheSpecDecode : Prop :=
  decodeTableWord 260 0x0000000000000000000000005FFFFFFFF0000000000000000FFFFFFFF00000001
    = some (.add 0x5FFFFFFFF 0xFFFFFFFF00000001) ∧
  decodeTableWord 260 0x10123456789ABCDEFFEDCBA9876543210DEADBEEFCAFEBABE0BADF00D8BADF00D
    = some (.sub 0x0123456789ABCDEFFEDCBA9876543210 0xDEADBEEFCAFEBABE0BADF00D8BADF00D) ∧
  decodeTableWord 260 0x20000000100000000000000000000000300000000000000000000000100000005
    = some (.mul 0x1000000000000000000000003 0x100000005) ∧
  decodeTableWord 260 0x30000000000000000000000000000006400000000000000000000000000000007 = some (.div 0x64 0x7) ∧
  decodeTableWord 260 0x40000000000000000000000000000006400000000000000000000000000000007 = some (.mod 0x64 0x7) ∧
  decodeTableWord 260 0x60123456789ABCDEFFEDCBA9876543210DEADBEEFCAFEBABE0BADF00D8BADF00D
    = some (.reserved6 0x0123456789ABCDEFFEDCBA9876543210 0xDEADBEEFCAFEBABE0BADF00D8BADF00D) ∧
  decodeTableWord 260 0xA0000000000000001000000000000000500000000000000010000000000000007
    = some (.lt 0x10000000000000005 0x10000000000000007)

/-! ### The step (`30_encoding.md` R34, `60_exceptions.md`, `70_reset_and_hazards.md`) -/

/-- A step runs the decoded command: when the host's next action presents a word that encodes `i`, without reset, the step is
`exec i` at the state from whose script the action has been removed (R9, R30; that the host's script stands in the state is
log entry 1). -/
def Obligations.StepRunsTheDecodedCommand : Prop :=
  ∀ (s : State) (rest : List HostAction) (w : CmdWord) (i : Instr),
    s.script = HostAction.present w :: rest → decode w = i → step s = exec i { s with script := rest }

/-- R34, the whole step function, in numbers (`outcomeOf` is its `case op of`): presented to an aborted unit a command is not
accepted and has no step, which the model writes as a fault (log entry 4); otherwise it gets its response, `STATUS` unchanged, or it raises its abort and gets none. -/
def Obligations.ExecIsTheStepFunction : Prop :=
  ∀ (op : OpSel) (l r : U128) (s : State),
    exec (decode (commandWord op l r)) s =
      if s.status.aborted then .fault .stuckAborted
      else match outcomeOf op l r with
        | .responds rsp => .next { s with responses := s.responses ++ [rsp] }
        | .aborts c => .next { s with status := { aborted := true, abortCode := c.code } }

/-- R105, at the command level and at the ports: `rst = 1` clears `STATUS`, whatever the state and whatever command is
presented; the command is not accepted, no response is given, the response outputs are 0, the host's other actions stand, and a
second such cycle changes nothing more. -/
def Obligations.ResetOverridesEverything : Prop :=
  (∀ (s : State) (a : HostAction) (rest : List HostAction),
    s.script = a :: rest → a.rst = true →
      step s = .next { status := { aborted := false, abortCode := 0 }, script := rest, responses := s.responses }) ∧
  (∀ (st : Status) (p q : PortIn), p.rst = true → q.rst = true →
    (cycle st p).1 = { aborted := false, abortCode := 0 } ∧ (cycle st p).2.cmdReady = false ∧
    (cycle st p).2.rspValid = false ∧ (cycle st p).2.rspValue = 0 ∧ (cycle st p).2.rspFlag = false ∧
    (cycle (cycle st p).1 q).1 = (cycle st p).1)

/-- An idle step keeps `STATUS` and gives no response: "an idle unit" and "an aborted unit keep `STATUS` and do nothing" (R102).
That an aborted unit has idle steps at all, against R94's "no step except reset", is the model's reading (log entry 12); that a
host with nothing left to do makes such a step is the model's choice (log entry 3). -/
def Obligations.IdleStepKeepsStatus : Prop :=
  (∀ (s : State) (a : HostAction) (rest : List HostAction),
    s.script = a :: rest → a.rst = false → a.cmd = none → step s = .next { s with script := rest }) ∧
  (∀ s : State, s.script = [] → step s = .next s)

/-- R94, at the command level and at the ports: while `ABORTED = 1` no command is accepted and `STATUS` does not change
whatever the host presents, `cmd_ready = 0` and `rsp_valid = 0`; a presented command has no step, which the model writes as a
fault (log entry 4), the only step that changes `STATUS` is reset, and the other steps are idle (log entry 12). -/
def Obligations.AbortedUnitIsStuck : Prop :=
  (∀ (s : State) (rest : List HostAction) (w : CmdWord), s.status.aborted = true →
    s.script = HostAction.present w :: rest → step s = .fault .stuckAborted) ∧
  (∀ s t : State, s.status.aborted = true → step s = .next t →
    t.responses = s.responses ∧ (t.status = s.status ∨ ∃ a rest, s.script = a :: rest ∧ a.rst = true)) ∧
  (∀ (st : Status) (p : PortIn), st.aborted = true → p.rst = false →
    (cycle st p).1 = st ∧ (cycle st p).2.cmdReady = false ∧ (cycle st p).2.rspValid = false)

/-- R95: reset is the only way out of the aborted state, and it forgets the code; in any step that stays aborted the code is
that of the first and only abort. -/
def Obligations.OnlyResetLeavesTheAbortedState : Prop :=
  ∀ s t : State, step s = .next t → s.status.aborted = true →
    (t.status.aborted = false → t.status.abortCode = 0 ∧ ∃ a rest, s.script = a :: rest ∧ a.rst = true) ∧
    (t.status.aborted = true → t.status.abortCode = s.status.abortCode)

/-- R90: the causes are functions of `op` alone, `UNSUPPORTED_OPERATION` (1) for `op` 0x3 and 0x4, `ILLEGAL_OPERATION` (2) for 0x5,
0x6, 0x7, 0xE and 0xF, and none for any other; a step enters the aborted state exactly when it accepts a command with a cause,
and records that cause's code and nothing else. -/
def Obligations.OnlyNamedCausesAbort : Prop :=
  (∀ i : Instr, abortCause i =
    if i.op ∈ [0x3#4, 0x4#4] then some .unsupportedOperation
    else if i.op ∈ [0x5#4, 0x6#4, 0x7#4, 0xE#4, 0xF#4] then some .illegalOperation else none) ∧
  AbortCause.unsupportedOperation.code = 1 ∧ AbortCause.illegalOperation.code = 2 ∧
  (∀ s t : State, step s = .next t → s.status.aborted = false →
    (t.status.aborted = true ↔ ∃ w rest c, s.script = { rst := false, cmd := some w } :: rest ∧
      abortCause (decode w) = some c) ∧
    (∀ w rest c, s.script = { rst := false, cmd := some w } :: rest → abortCause (decode w) = some c →
      t = { status := { aborted := true, abortCode := c.code }, script := rest, responses := s.responses }))

/-- The frame of every step. The model's choices: the host's script loses the action taken and nothing else (log entry 1; an
empty script stays empty, log entry 3), and the captured responses keep all they held, over a reset too (log entry 2). The
spec's: a step gives one response at most, and only when a command was accepted that does not abort, in a running unit whose
`STATUS` it leaves (R34, R93, R94, R105). -/
def Obligations.StepFrame : Prop :=
  ∀ s t : State, step s = .next t →
    t.script = s.script.tail ∧
    (t.responses = s.responses ∨ ∃ r, t.responses = s.responses ++ [r] ∧ t.status = s.status ∧ s.status.aborted = false ∧
      ∃ w rest, s.script = HostAction.present w :: rest ∧ contract (decode w) = some r)

/-- The frame of each command, of the responding shape (`ADD`, `SUB`, `MUL`, `EQ`, `NE`, `LT`, `LE`, `GT`, `GE`) and of the
aborting shape (`DIV`, `MOD`, the five reserved): the first writes no state of the unit and the host's script stands; the
second writes `STATUS` and nothing else. -/
def Obligations.CommandFrame : Prop :=
  ∀ (i : Instr) (s t : State), exec i s = .next t →
    t.script = s.script ∧
    (i.dutiful = true → t.status = s.status ∧ ∃ r, t.responses = s.responses ++ [r]) ∧
    (i.dutiful = false → t.responses = s.responses ∧ t.status.aborted = true)

/-- The class bit of R32 and the inactive half of R34: the response of a command with `op[3] = 0` has `flag = 0`, so it is no
carry or overflow indication, and that of a command with `op[3] = 1` has `value = 0`. -/
def Obligations.InactiveHalfIsZero : Prop :=
  ∀ (i : Instr) (s t : State) (r : Response), exec i s = .next t → t.responses = s.responses ++ [r] →
    (i.op[3] = false → r.flag = false) ∧ (i.op[3] = true → r.value = 0)

/-- R23: presenting the same command again gives the same response, while the command does not abort. -/
def Obligations.RepeatedCommandRepeatsItsResponse : Prop :=
  ∀ (i : Instr) (s t : State), exec i s = .next t → t.status.aborted = false →
    ∃ r, t.responses = s.responses ++ [r] ∧ exec i t = .next { t with responses := t.responses ++ [r] }

/-! ### State (`10_state.md`) -/

/-- R14: `STATUS[0]` is `ABORTED` and `STATUS[2:1]` is `ABORT_CODE`; R19: both are 0 after reset, where the invariant of R14
holds. -/
def Obligations.ResetStateIsClearAndLegal : Prop :=
  (∀ st : Status, st.word.toNat = st.abortCode.toNat * 2 + st.aborted.toNat) ∧
  State.reset.status = { aborted := false, abortCode := 0 } ∧ State.reset.status.word = 0 ∧ StatusInv State.reset.status

/-- The invariant of R14, `ABORTED = 0` exactly when `ABORT_CODE = 0`, with "3 is never written", is kept by every step from
every state that meets it. -/
def Obligations.StatusInvariantIsKept : Prop :=
  ∀ s t : State, StatusInv s.status → step s = .next t → StatusInv t.status

/-- R18, R25: nothing a command did can be observed later except through `STATUS`. Two machines with the same `STATUS` and the
same commands to come, whatever responses the host captured before, make the same steps, give the same responses and reach
the same `STATUS`, for any number of steps; and they stop together (a stop is the fault of log entry 4). -/
def Obligations.PastIsSeenOnlyThroughStatus : Prop :=
  ∀ (k : Nat) (s t : State), s.status = t.status → s.script = t.script →
    (∀ s', Reaches s k s' → ∃ t' rs, Reaches t k t' ∧ t'.status = s'.status ∧ t'.script = s'.script ∧
      s'.responses = s.responses ++ rs ∧ t'.responses = t.responses ++ rs) ∧
    ((∃ s', Reaches s k s') ↔ ∃ t', Reaches t k t')

/-! ### Addition and subtraction (`41_add_sub.md`) -/

/-- R50, `ADD`: for every pair of operands it responds `(lhs + rhs) mod 2^128` with `flag = 0`; `op = 0x0`; the ripple adder over
four limbs gives the same value and its carries account for the exact sum; a limb with an all-ones `rhs` and a carry in gives
its `lhs` and a carry out. -/
def Obligations.AddRespondsTheSum : Prop :=
  (∀ (l r : U128) (s : State), s.status.aborted = false →
    exec (.add l r) s = .next { s with responses :=
      s.responses ++ [{ value := BitVec.ofNat 128 ((l.toNat + r.toNat) % 2 ^ 128), flag := false }] }) ∧
  (∀ l r : U128, opField (encode (.add l r)) = 0x0) ∧
  (∀ l r : U128, (rippleAdd l r).value = BitVec.ofNat 128 ((l.toNat + r.toNat) % 2 ^ 128) ∧
    l.toNat + r.toNat = (rippleAdd l r).c4.toNat * 2 ^ 128 + (rippleAdd l r).value.toNat) ∧
  (∀ x : W32, addLimb x 0xFFFFFFFF true = (x, true))

/-- R51, `SUB`: for every pair of operands it responds `lhs - rhs` when `lhs >=u rhs` and `lhs - rhs + 2^128` otherwise, with
`flag = 0`; `op = 0x1`; the ripple subtractor gives the same value and its last borrow is 1 exactly when `lhs <u rhs`; a limb
with an all-ones `rhs` and a borrow in gives its `lhs` and a borrow out. -/
def Obligations.SubRespondsTheDifference : Prop :=
  (∀ (l r : U128) (s : State), s.status.aborted = false →
    ∃ d : U128, exec (.sub l r) s = .next { s with responses := s.responses ++ [{ value := d, flag := false }] } ∧
      (r.toNat ≤ l.toNat → d.toNat = l.toNat - r.toNat) ∧
      (l.toNat < r.toNat → d.toNat = l.toNat + 2 ^ 128 - r.toNat) ∧
      (rippleSub l r).value = d) ∧
  (∀ l r : U128, opField (encode (.sub l r)) = 0x1) ∧
  (∀ l r : U128,
    (l.toNat : Int) - r.toNat = -((rippleSub l r).c4.toNat : Int) * 2 ^ 128 + (rippleSub l r).value.toNat ∧
    ((rippleSub l r).c4 = true ↔ l.toNat < r.toNat)) ∧
  (∀ x : W32, subLimb x 0xFFFFFFFF true = (x, true))

/-- R52: the carry and the borrow found by comparison are the true ones, at 32 and at 64 bits, and a limb with the comparator
test is the limb of R50 and of R51. -/
def Obligations.CarryAndBorrowByComparison : Prop :=
  (∀ (x y : W32) (cin : Bool),
    (carryTest32 x y cin = true ↔ 2 ^ 32 ≤ x.toNat + y.toNat + cin.toNat) ∧
    (borrowTest32 x y cin = true ↔ x.toNat < y.toNat + cin.toNat) ∧
    addLimbByCompare x y cin = addLimb x y cin ∧ subLimbByCompare x y cin = subLimb x y cin) ∧
  (∀ (x y : W64) (cin : Bool),
    (carryTest64 x y cin = true ↔ 2 ^ 64 ≤ x.toNat + y.toNat + cin.toNat) ∧
    (borrowTest64 x y cin = true ↔ x.toNat < y.toNat + cin.toNat)) ∧
  (∀ x y : W64, carryTest64 x y false = cmp64Lt (x + y) x ∧ borrowTest64 x y false = cmp64Lt x (x - y))

/-- R53: the source's two-halves form is the same function, each half is two limbs, and the carry into the high half is `c[2]` of
the ripple adder, the borrow `b[2]` of the ripple subtractor. -/
def Obligations.TwoHalvesFormIsTheSame : Prop :=
  ∀ l r : U128,
    twoHalvesAdd l r = u128Add l r ∧ twoHalvesSub l r = u128Sub l r ∧
    lo l = w32 l 1 ++ w32 l 0 ∧ hi l = w32 l 3 ++ w32 l 2 ∧
    (rippleAdd l r).c2 = cmp64Lt (lo l + lo r) (lo l) ∧ (rippleSub l r).c2 = cmp64Lt (lo l) (lo l - lo r)

/-- R54, R67, for the two strategies the model builds: for all operands both return `(lhs + rhs) mod 2^128`,
`(lhs - rhs) mod 2^128` and `(lhs · rhs) mod 2^128`. `ripple` is the spec's reference structure; which structure `parallel` is
(carry-select limbs, a sum of all kept products at once) is the model's choice (log entry 11), and of other structures nothing
is said. -/
def Obligations.StrategyIsNotObservable : Prop :=
  ∀ (strategy : ImplStrategy) (l r : U128),
    (addBy strategy l r).toNat = (l.toNat + r.toNat) % 2 ^ 128 ∧
    (subBy strategy l r).toNat = (2 ^ 128 + l.toNat - r.toNat) % 2 ^ 128 ∧
    (mulBy strategy l r).toNat = (l.toNat * r.toNat) % 2 ^ 128

/-- R55: the laws of addition and subtraction, items 1 to 8. -/
def Obligations.AdditionLaws : Prop :=
  (∀ a, u128Add a (fromU64Be 0 0) = a) ∧
  (∀ a, u128Sub a a = fromU64Be 0 0) ∧
  (∀ a b, u128Add a b = u128Add b a) ∧
  (∀ a b c, u128Add (u128Add a b) c = u128Add a (u128Add b c)) ∧
  u128Add (fromU64Be 0xFFFFFFFFFFFFFFFF 0xFFFFFFFFFFFFFFFF) (fromU64Be 0 1) = fromU64Be 0 0 ∧
  (∀ a b, u128Sub (u128Add a b) b = a ∧ u128Add (u128Sub a b) b = a) ∧
  (∀ a, u128Sub a 0 = a ∧ (u128Sub 0 a).toNat = (2 ^ 128 - a.toNat) % 2 ^ 128) ∧
  (∀ a b, u128Sub a b = u128Sub b a ↔ (u128Sub a b).toNat = 0 ∨ (u128Sub a b).toNat = 2 ^ 127) ∧
  (∃ a b, u128Sub a b ≠ u128Sub b a) ∧ (∃ a b c, u128Sub (u128Sub a b) c ≠ u128Sub a (u128Sub b c))

/-! ### Multiplication (`42_multiply.md`) -/

/-- R60, `MUL`: for every pair of operands it responds the low 128 bits of the exact product with `flag = 0`; `op = 0x2`; and the
column sums of the ten partial products give the same value. -/
def Obligations.MulRespondsTheLowProduct : Prop :=
  (∀ (l r : U128) (s : State), s.status.aborted = false →
    exec (.mul l r) s = .next { s with responses :=
      s.responses ++ [{ value := BitVec.ofNat 128 ((l.toNat * r.toNat) % 2 ^ 128), flag := false }] }) ∧
  (∀ l r : U128, opField (encode (.mul l r)) = 0x2) ∧
  (∀ l r : U128, (mulColumns l r).value = BitVec.ofNat 128 ((l.toNat * r.toNat) % 2 ^ 128))

/-- R61, R63, R65: there are ten kept and six discarded limb pairs; the exact product is the weighted sum over all sixteen; every
discarded product is a multiple of `2^128` at its weight; and the kept ones, placed by weight, give the low 128 bits. -/
def Obligations.KeptPartialProductsSuffice : Prop :=
  keptPairs.length = 10 ∧ discardedPairs.length = 6 ∧
  (∀ p, p ∈ discardedPairs ↔ p ∉ keptPairs) ∧
  (∀ (l r : U128) (i j : Fin 4), (partialProduct l r i j).toNat = (w32 l i).toNat * (w32 r j).toNat) ∧
  (∀ l r : U128, l.toNat * r.toNat =
    (limbPairs.map fun p => (partialProduct l r p.1 p.2).toNat * 2 ^ (32 * (p.1.val + p.2.val))).sum) ∧
  (∀ l r : U128, ∀ p ∈ discardedPairs, 2 ^ 128 ∣ (partialProduct l r p.1 p.2).toNat * 2 ^ (32 * (p.1.val + p.2.val))) ∧
  (∀ l r : U128, (l.toNat * r.toNat) % 2 ^ 128 =
    (keptPairs.map fun p => (partialProduct l r p.1 p.2).toNat * 2 ^ (32 * (p.1.val + p.2.val))).sum % 2 ^ 128)

/-- R64: the bounds of the pieces, of the column sums and of the column carries, and that the bounds on `k1` and `k2` are attained. -/
def Obligations.ColumnSumsAreBounded : Prop :=
  (∀ l r : U128,
    (mulColumns l r).s1 ≤ 0x2FFFFFFFD ∧ (mulColumns l r).k1 ≤ 2 ∧
    (mulColumns l r).s2 ≤ 0x4FFFFFFFD ∧ (mulColumns l r).k2 ≤ 4 ∧
    (mulColumns l r).s3 ≤ 0x6FFFFFFFD ∧ (mulColumns l r).s3 < 2 ^ 35 ∧ (mulColumns l r).s0 / 2 ^ 32 = 0) ∧
  (∀ p : W64, lo32 p ≤ 2 ^ 32 - 1 ∧ hi32 p ≤ 2 ^ 32 - 1) ∧
  (∃ l r : U128, (mulColumns l r).k1 = 2) ∧ (∃ l r : U128, (mulColumns l r).k2 = 4)

/-- R66: the laws of multiplication, items 1 to 6. -/
def Obligations.MultiplicationLaws : Prop :=
  (∀ a b, u128Mul a b = u128Mul b a) ∧
  u128Mul (fromU64Be 1 0) (fromU64Be 1 0) = fromU64Be 0 0 ∧
  (∀ a, u128Mul a 0 = 0 ∧ u128Mul a 1 = a) ∧
  (∀ a b c, u128Mul (u128Mul a b) c = u128Mul a (u128Mul b c)) ∧
  (∀ a b c, u128Mul a (u128Add b c) = u128Add (u128Mul a b) (u128Mul a c)) ∧
  (∀ a b c, u128Mul a (u128Sub b c) = u128Sub (u128Mul a b) (u128Mul a c)) ∧
  (∀ (a : U128) (k : Nat), u128Mul a (BitVec.ofNat 128 (2 ^ k % 2 ^ 128)) = a <<< k ∧
    (128 ≤ k → u128Mul a (BitVec.ofNat 128 (2 ^ k % 2 ^ 128)) = 0)) ∧
  (∃ a b c d : U128, u128Mul a b = u128Mul c d ∧ a.toNat * b.toNat < 2 ^ 128 ∧ 2 ^ 128 ≤ c.toNat * d.toNat)

/-! ### Divide, modulo, reserved (`43_divide_modulo.md`, `30_encoding.md` R35) -/

/-- R70, R71: `DIV` (`op = 0x3`) and `MOD` (`op = 0x4`) take the abort with code 1 for every pair of operands, a zero divisor and
trivial quotients included; nothing else changes and no response is given; at the ports `rsp_valid` stays 0, and in the next
cycle `abort = 1`, `abort_code = 1`, `cmd_ready = 0`. -/
def Obligations.DivAndModTakeTheUnsupportedAbort : Prop :=
  (∀ (l r : U128) (s : State), s.status.aborted = false →
    exec (.div l r) s = .next { s with status := { aborted := true, abortCode := 1 } } ∧
    exec (.mod l r) s = .next { s with status := { aborted := true, abortCode := 1 } }) ∧
  (∀ l r : U128, opField (encode (.div l r)) = 0x3 ∧ opField (encode (.mod l r)) = 0x4) ∧
  (∀ (st : Status) (p q : PortIn), st.aborted = false → p.rst = false → p.cmdValid = true →
    (p.cmdOp = 0x3 ∨ p.cmdOp = 0x4) → q.rst = false →
      (cycle st p).2.rspValid = false ∧ (cycle st p).2.rspValue = 0 ∧ (cycle st p).2.rspFlag = false ∧
      (cycle (cycle st p).1 q).2.abort = true ∧ (cycle (cycle st p).1 q).2.abortCode = 1 ∧
      (cycle (cycle st p).1 q).2.cmdReady = false)

/-- R35: each of the five reserved rows, `op` 0x5, 0x6, 0x7, 0xE and 0xF, takes the abort with code 2, whatever the operands;
nothing else changes and no response is given. No encoding executes as a no-op. -/
def Obligations.ReservedOpsTakeTheIllegalAbort : Prop :=
  (∀ (l r : U128) (s : State), s.status.aborted = false →
    exec (.reserved5 l r) s = .next { s with status := { aborted := true, abortCode := 2 } } ∧
    exec (.reserved6 l r) s = .next { s with status := { aborted := true, abortCode := 2 } } ∧
    exec (.reserved7 l r) s = .next { s with status := { aborted := true, abortCode := 2 } } ∧
    exec (.reservedE l r) s = .next { s with status := { aborted := true, abortCode := 2 } } ∧
    exec (.reservedF l r) s = .next { s with status := { aborted := true, abortCode := 2 } }) ∧
  (∀ l r : U128, opField (encode (.reserved5 l r)) = 0x5 ∧ opField (encode (.reserved6 l r)) = 0x6 ∧
    opField (encode (.reserved7 l r)) = 0x7 ∧ opField (encode (.reservedE l r)) = 0xE ∧
    opField (encode (.reservedF l r)) = 0xF) ∧
  (∀ (i : Instr) (s : State), exec i s ≠ .next s)

/-! ### Comparison (`44_compare.md`) -/

/-- R75: the 32-bit comparator compares numeric values, unsigned, and exactly one of less, equal, greater is 1. -/
def Obligations.Comparator32IsNumericAndTotal : Prop :=
  ∀ x y : W32, (cmp32Eq x y = true ↔ x.toNat = y.toNat) ∧ (cmp32Lt x y = true ↔ x.toNat < y.toNat) ∧
    (cmp32Lt x y).toNat + (cmp32Eq x y).toNat + (cmp32Lt y x).toNat = 1 ∧ cmp32Lt 0x7FFFFFFF 0x80000000 = true

/-- R76: the 64-bit comparator made of two 32-bit ones compares the 64-bit numeric values. -/
def Obligations.Comparator64IsNumeric : Prop :=
  ∀ x y : W64,
    cmp64Eq x y = (cmp32Eq (high32 x) (high32 y) && cmp32Eq (low32 x) (low32 y)) ∧
    cmp64Lt x y = (cmp32Lt (high32 x) (high32 y) || (cmp32Eq (high32 x) (high32 y) && cmp32Lt (low32 x) (low32 y))) ∧
    (cmp64Eq x y = true ↔ x = y) ∧ (cmp64Lt x y = true ↔ x.toNat < y.toNat)

/-- R77, R78: the 128-bit comparator compares the 128-bit numeric values, most significant half first; it is the cascade over
four limbs; and it is the final borrow of the subtractor. -/
def Obligations.Comparator128IsNumericAndCascades : Prop :=
  ∀ x y : U128,
    u128Eq x y = (cmp64Eq (hi x) (hi y) && cmp64Eq (lo x) (lo y)) ∧
    (u128Eq x y = true ↔ x = y) ∧ (u128Eq x y = true ↔ x.toNat = y.toNat) ∧
    u128Lt x y = (cmp64Lt (hi x) (hi y) || (cmp64Eq (hi x) (hi y) && cmp64Lt (lo x) (lo y))) ∧
    (u128Lt x y = true ↔ x.toNat < y.toNat) ∧
    u128Lt x y = u128LtCascade x y ∧ u128Lt x y = (rippleSub x y).c4

/-- R80 to R85: the six comparisons, for every pair of operands: `value = 0` and `flag` the numeric predicate; the encodings are
`op = 0x8` to `0xD`. -/
def Obligations.ComparisonsRespondTheirPredicates : Prop :=
  (∀ (l r : U128) (s : State), s.status.aborted = false →
    exec (.eq l r) s = .next { s with responses := s.responses ++ [{ value := 0, flag := decide (l.toNat = r.toNat) }] } ∧
    exec (.ne l r) s = .next { s with responses := s.responses ++ [{ value := 0, flag := decide (l.toNat ≠ r.toNat) }] } ∧
    exec (.lt l r) s = .next { s with responses := s.responses ++ [{ value := 0, flag := decide (l.toNat < r.toNat) }] } ∧
    exec (.le l r) s = .next { s with responses := s.responses ++ [{ value := 0, flag := decide (l.toNat ≤ r.toNat) }] } ∧
    exec (.gt l r) s = .next { s with responses := s.responses ++ [{ value := 0, flag := decide (r.toNat < l.toNat) }] } ∧
    exec (.ge l r) s = .next { s with responses := s.responses ++ [{ value := 0, flag := decide (r.toNat ≤ l.toNat) }] }) ∧
  (∀ l r : U128, opField (encode (.eq l r)) = 0x8 ∧ opField (encode (.ne l r)) = 0x9 ∧
    opField (encode (.lt l r)) = 0xA ∧ opField (encode (.le l r)) = 0xB ∧
    opField (encode (.gt l r)) = 0xC ∧ opField (encode (.ge l r)) = 0xD)

/-- R86, each name standing for the `flag` of the command, with R56's detection of a wrap: trichotomy; the complements; the
mirror images; transitivity and irreflexivity; equality is identity of values; and the agreement with `SUB` and `ADD`, which
wrap when their value is not the exact difference or sum. -/
def Obligations.OrderLawsOfTheCommands : Prop :=
  (∀ a b : U128,
    (flagOf (.lt a b)).toNat + (flagOf (.eq a b)).toNat + (flagOf (.gt a b)).toNat = 1 ∧
    flagOf (.ne a b) = !flagOf (.eq a b) ∧ flagOf (.le a b) = !flagOf (.gt a b) ∧ flagOf (.ge a b) = !flagOf (.lt a b) ∧
    flagOf (.gt a b) = flagOf (.lt b a) ∧ flagOf (.ge a b) = flagOf (.le b a) ∧ flagOf (.eq a b) = flagOf (.eq b a) ∧
    flagOf (.le a b) = (flagOf (.lt a b) || flagOf (.eq a b)) ∧ flagOf (.lt a a) = false ∧
    (flagOf (.eq a b) = true ↔ a = b) ∧ (flagOf (.lt a b) = true ↔ a.toNat < b.toNat) ∧
    (flagOf (.lt a b) = true ↔ (a.toNat : Int) - b.toNat ≠ (valueOf (.sub a b)).toNat) ∧
    (flagOf (.lt (valueOf (.add a b)) a) = true ↔ a.toNat + b.toNat ≠ (valueOf (.add a b)).toNat)) ∧
  (∀ a b c : U128, flagOf (.lt a b) = true → flagOf (.lt b c) = true → flagOf (.lt a c) = true)

/-! ### Values and views (`40_representation.md`, `20_memory.md` R21) -/

/-- R41, R42: the views as numbers, `beW(v, i) = floor(v / 2^(W·(n-1-i))) mod 2^W`; `v` is the weighted sum of its units; `hi`
and `lo` are the two 64-bit units and make up the value; and the weight index is the big-endian index from the other end. -/
def Obligations.ViewsAreTheSlicesOfTheValue : Prop :=
  ∀ v : U128,
    (∀ i : Fin 16, (be8 v i).toNat = v.toNat / 2 ^ (8 * (15 - i.val)) % 2 ^ 8) ∧
    (∀ i : Fin 8, (be16 v i).toNat = v.toNat / 2 ^ (16 * (7 - i.val)) % 2 ^ 16) ∧
    (∀ i : Fin 4, (be32 v i).toNat = v.toNat / 2 ^ (32 * (3 - i.val)) % 2 ^ 32) ∧
    (∀ i : Fin 2, (be64 v i).toNat = v.toNat / 2 ^ (64 * (1 - i.val)) % 2 ^ 64) ∧
    v.toNat = ∑ i : Fin 16, (be8 v i).toNat * 2 ^ (8 * (15 - i.val)) ∧
    v.toNat = ∑ i : Fin 8, (be16 v i).toNat * 2 ^ (16 * (7 - i.val)) ∧
    v.toNat = ∑ i : Fin 4, (be32 v i).toNat * 2 ^ (32 * (3 - i.val)) ∧
    v.toNat = ∑ i : Fin 2, (be64 v i).toNat * 2 ^ (64 * (1 - i.val)) ∧
    hi v = be64 v 0 ∧ lo v = be64 v 1 ∧ v.toNat = (hi v).toNat * 2 ^ 64 + (lo v).toNat ∧
    (∀ k : Fin 4, w32 v k = be32 v k.rev) ∧ (∀ k : Fin 2, w64 v k = be64 v k.rev)

/-- R47: views nest, so all of them describe the same sixteen bytes. -/
def Obligations.ViewsNest : Prop :=
  ∀ v : U128,
    (∀ i : Fin 2, be64 v i = be32 v ⟨2 * i.val, by omega⟩ ++ be32 v ⟨2 * i.val + 1, by omega⟩) ∧
    (∀ i : Fin 4, be32 v i = be16 v ⟨2 * i.val, by omega⟩ ++ be16 v ⟨2 * i.val + 1, by omega⟩) ∧
    (∀ i : Fin 8, be16 v i = be8 v ⟨2 * i.val, by omega⟩ ++ be8 v ⟨2 * i.val + 1, by omega⟩)

/-- R43 to R46: the constructors as shifts and sums, the accessor laws, their agreement, and that each is a bijection. -/
def Obligations.ConstructorsAreBijections : Prop :=
  (∀ i0 i1 i2 i3 : W32,
    fromU32Be i0 i1 i2 i3 = (i0.zeroExtend 128 <<< 96 ||| i1.zeroExtend 128 <<< 64 ||| i2.zeroExtend 128 <<< 32 |||
      i3.zeroExtend 128) ∧
    (fromU32Be i0 i1 i2 i3).toNat = i0.toNat * 2 ^ 96 + i1.toNat * 2 ^ 64 + i2.toNat * 2 ^ 32 + i3.toNat ∧
    be32 (fromU32Be i0 i1 i2 i3) 0 = i0 ∧ be32 (fromU32Be i0 i1 i2 i3) 1 = i1 ∧
    be32 (fromU32Be i0 i1 i2 i3) 2 = i2 ∧ be32 (fromU32Be i0 i1 i2 i3) 3 = i3 ∧
    fromU32Be i0 i1 i2 i3 = fromU64Be (i0.zeroExtend 64 <<< 32 ||| i1.zeroExtend 64)
      (i2.zeroExtend 64 <<< 32 ||| i3.zeroExtend 64)) ∧
  (∀ i0 i1 : W64, (fromU64Be i0 i1).toNat = i0.toNat * 2 ^ 64 + i1.toNat ∧
    be64 (fromU64Be i0 i1) 0 = i0 ∧ be64 (fromU64Be i0 i1) 1 = i1) ∧
  (∀ v : U128, fromU32Be (be32 v 0) (be32 v 1) (be32 v 2) (be32 v 3) = v ∧ fromU64Be (be64 v 0) (be64 v 1) = v)

/-- R21: the memory image for either byte order, the wider physical arrays, each of whose elements is what the host reads in its
own order from the bytes of the image, that the image determines the value, and that a wider unit is made of the bytes at its
indices, whatever the host order. -/
def Obligations.MemoryImageFollowsTheHostOrder : Prop :=
  ∀ v : U128,
    (∀ k : Fin 16, (memImage .big v)[k] = be8 v k ∧ (memImage .little v)[k] = be8 v ⟨15 - k.val, by omega⟩) ∧
    (∀ k : Fin 8, (physical16 .big v)[k] = be16 v k ∧ (physical16 .little v)[k] = be16 v ⟨7 - k.val, by omega⟩) ∧
    (∀ k : Fin 4, (physical32 .big v)[k] = be32 v k ∧ (physical32 .little v)[k] = be32 v ⟨3 - k.val, by omega⟩) ∧
    (∀ k : Fin 2, (physical64 .big v)[k] = be64 v k ∧ (physical64 .little v)[k] = be64 v ⟨1 - k.val, by omega⟩) ∧
    (∀ (e : HostEndian) (k : Fin 8), readElement16 e (memImage e v) k = (physical16 e v)[k]) ∧
    (∀ (e : HostEndian) (k : Fin 4), readElement32 e (memImage e v) k = (physical32 e v)[k]) ∧
    (∀ (e : HostEndian) (k : Fin 2), readElement64 e (memImage e v) k = (physical64 e v)[k]) ∧
    (∀ (e : HostEndian) (u : U128), memImage e u = memImage e v → u = v) ∧
    (∀ i : Fin 4, be32 v i = ((be8 v ⟨4 * i.val, by omega⟩ ++ be8 v ⟨4 * i.val + 1, by omega⟩) ++
      be8 v ⟨4 * i.val + 2, by omega⟩) ++ be8 v ⟨4 * i.val + 3, by omega⟩)

/-! ### Runs (`70_reset_and_hazards.md` R113, `20_memory.md` R25) -/

/-- R113, R98, R107: a run of commands whose host keeps its duty ends with `STATUS` clear and has exactly one response per
command, in command order, each the one of the operation map. The run is the script of log entry 1 that presents one command a
step from reset, its responses those of log entry 2. -/
def Obligations.DutifulRunIsAnsweredInOrder : Prop :=
  ∀ cmds : List Instr, (∀ i ∈ cmds, i.dutiful = true) →
    Reaches (boot (cmds.map encode)) cmds.length
      { status := Status.reset, script := [], responses := cmds.filterMap contract } ∧
    (cmds.filterMap contract).length = cmds.length

/-- R93, R94, R25 item 2: the abort is precise. In a run (log entries 1 and 2) whose first undutiful command is `bad`, every
earlier command has its response, `bad` has none and sets `STATUS` to its code, the run has gone wrong, and the command after
it never gets a step, which the model writes as the fault `stuckAborted` (log entry 4). -/
def Obligations.AbortIsPrecise : Prop :=
  ∀ (before : List Instr) (bad : Instr) (after : List Instr) (c : AbortCause),
    (∀ i ∈ before, i.dutiful = true) → abortCause bad = some c →
    ∃ t, Reaches (boot ((before ++ bad :: after).map encode)) (before.length + 1) t ∧ goneWrong t = true ∧
      t.status.abortCode = c.code ∧ t.responses = before.filterMap contract ∧
      t.script = after.map (fun i => HostAction.present (encode i)) ∧
      (after ≠ [] → step t = .fault .stuckAborted)

/-! ### Ports and timing (`30_encoding.md` R30, `70_reset_and_hazards.md` R110, R111) -/

/-- R30, at one cycle: `cmd_ready`, `abort` and `abort_code` are functions of `rst` and of `STATUS`; an accepted command gives its
response in that cycle or, if it aborts, none; without an accepted command all response outputs are 0; and under reset nothing
is accepted and `STATUS` is clear after the edge. While `cmd_valid = 0` the command ports are ignored. -/
def Obligations.CycleIsTheReferenceBehaviour : Prop :=
  ∀ (st : Status) (p : PortIn),
    (cycle st p).2.cmdReady = (!p.rst && !st.aborted) ∧ (cycle st p).2.abort = st.aborted ∧
    (cycle st p).2.abortCode = st.abortCode ∧
    ((p.rst || !p.cmdValid || st.aborted) = true →
      (cycle st p).2.rspValid = false ∧ (cycle st p).2.rspValue = 0 ∧ (cycle st p).2.rspFlag = false ∧
      (cycle st p).1 = if p.rst then { aborted := false, abortCode := 0 } else st) ∧
    ((p.rst || !p.cmdValid || st.aborted) = false →
      (∀ r, contract (decode p.word) = some r → (cycle st p).1 = st ∧ (cycle st p).2.rspValid = true ∧
        (cycle st p).2.rspValue = r.value ∧ (cycle st p).2.rspFlag = r.flag) ∧
      (∀ c, abortCause (decode p.word) = some c → (cycle st p).1 = { aborted := true, abortCode := c.code } ∧
        (cycle st p).2.rspValid = false ∧ (cycle st p).2.rspValue = 0 ∧ (cycle st p).2.rspFlag = false)) ∧
    (∀ q : PortIn, q.rst = p.rst → q.cmdValid = false → p.cmdValid = false → cycle st q = cycle st p)

/-- R9: the cycle-level ports carry exactly one step of the command level per accepted command. The model reads every cycle as
one step, an idle or a reset cycle too (log entry 13). Whatever the ports present, if the step of the same host action answers a
next state, its `STATUS` and its response are the cycle's. It fails to answer one only when a command waits on an aborted unit,
where the cycle changes nothing and the model writes the missing step as a fault (log entry 4); that an idle cycle of an aborted
unit is a step that answers is the model's reading of R94 ("no step except reset") against R102 (log entry 12). -/
def Obligations.CycleCarriesOneStep : Prop :=
  ∀ (st : Status) (p : PortIn) (rest : List HostAction) (rs : List Response),
    (∀ t, step { status := st, script := p.action :: rest, responses := rs } = .next t →
      t.status = (cycle st p).1 ∧ t.responses = rs ++ responsesOf [(cycle st p).2]) ∧
    ((∀ t, step { status := st, script := p.action :: rest, responses := rs } ≠ .next t) →
      st.aborted = true ∧ p.cmdValid = true ∧ p.rst = false ∧ (cycle st p).1 = st ∧ responsesOf [(cycle st p).2] = [])

/-- R111 and R18, for the implementation the model builds: one command in flight at most and `cmd_ready` low meanwhile (the
model's choice, log entry 6; R111 allows others, of which nothing is said). With any latencies, over any sequence of port inputs
without reset, it gives in order exactly the responses that the reference gives to the commands it accepted, and reaches the
same `STATUS`, once nothing is in flight. -/
def Obligations.LatencyIsUnobservable : Prop :=
  ∀ (latency : OpSel → Nat) (st : Status) (ins : List PortIn), (∀ p ∈ ins, p.rst = false) →
    (busyCycles latency { status := st, inFlight := none } ins).1.inFlight = none →
    performAll st (acceptedOf ins (busyCycles latency { status := st, inFlight := none } ins).2) =
      ((busyCycles latency { status := st, inFlight := none } ins).1.status,
        responsesOf (busyCycles latency { status := st, inFlight := none } ins).2)

/-- R111: with `LATENCY = 0` for every `op` the implementation of log entry 6 is the reference, cycle by cycle, resets
included. -/
def Obligations.ZeroLatencyIsTheReference : Prop :=
  ∀ (st : Status) (ins : List PortIn),
    (busyCycles (fun _ => 0) { status := st, inFlight := none } ins).2 = (cycles st ins).2 ∧
    (busyCycles (fun _ => 0) { status := st, inFlight := none } ins).1 = { status := (cycles st ins).1, inFlight := none }

/-- The liveness clause of R111 for an idle unit, bounded, in the implementation of log entry 6 (acceptance at once and the
response exactly `LATENCY(op)` cycles later are that layer's). Every command, of whatever `op`, presented to a unit that is
idle, not in reset and not aborted is accepted in that cycle. If it does not abort it is answered in the cycle `LATENCY(op)`
later and in no cycle between; if it aborts it gets no response and `STATUS` has its code after that cycle. -/
def Obligations.PresentedCommandIsAnswered : Prop :=
  (∀ (latency : OpSel → Nat) (st : Status) (p : PortIn),
    st.aborted = false → p.rst = false → p.cmdValid = true →
      (busyCycle latency { status := st, inFlight := none } p).2.cmdReady = true ∧
      acceptedOf [p] [(busyCycle latency { status := st, inFlight := none } p).2] = [p.word]) ∧
  (∀ (latency : OpSel → Nat) (st : Status) (p : PortIn) (later : List PortIn),
    st.aborted = false → p.rst = false → p.cmdValid = true → (∀ q ∈ later, q.rst = false) →
    later.length = latency p.cmdOp →
    ∃ u outs, busyCycles latency { status := st, inFlight := none } (p :: later) = (u, outs) ∧ u.inFlight = none ∧
      outs.map PortOut.cmdReady = true :: List.replicate (latency p.cmdOp) false ∧
      (∀ r, contract (decode p.word) = some r → u.status = st ∧ responsesOf outs = [r] ∧
        outs.map PortOut.rspValid = List.replicate (latency p.cmdOp) false ++ [true]) ∧
      (∀ c, abortCause (decode p.word) = some c →
        u.status = { aborted := true, abortCode := c.code } ∧ responsesOf outs = []))

/-! ### Scripts and platforms (`30_encoding.md` R36, `60_exceptions.md` R101) -/

/-- R36, R113: a well-formed script whose lines keep the host's duty, started on a running unit, finishes: every `%label` has a
value when it is needed, every line gets one response, and `STATUS` is as before. -/
def Obligations.WellFormedScriptFinishes : Prop :=
  ∀ (lines : List ScriptLine) (st : Status), Script.wellFormed [] lines = true → (∀ l ∈ lines, l.dutiful = true) →
    st.aborted = false →
    (runScript [] st lines).ending = .finished ∧ (runScript [] st lines).status = st ∧
      (runScript [] st lines).responses.length = lines.length

/-- R36, the notation: a number written in at least one and at most the allowed count of hexadecimal digits reads as itself; the
text of a command word has 65 digits, which stand for the word; and a command written as a line reads as that command and
assembles to its encoded word. -/
def Obligations.WrittenCommandsReadBack : Prop :=
  (∀ most n v : Nat, 1 ≤ n → n ≤ most → v < 16 ^ n → readHex most ('0' :: 'x' :: hexText n v) = some v) ∧
  (∀ w : CmdWord, (wordText w).length = 65 ∧ (readDigits false (wordText w)).map digitsValue = some w.toNat) ∧
  (∀ (m : Mnemonic) (l r : U128),
    readLine (commandText m l r) = some { label := none, mnemonic := m, lhs := .hex128 l, rhs := .hex128 r }) ∧
  (∀ (m : Mnemonic) (l r : U128) (label : Option String) (kept : List (String × U128)),
    assemble kept { label := label, mnemonic := m, lhs := .hex128 l, rhs := .hex128 r } = some (encode (m.command l r)))

/-- R101: a step of one unit of a platform changes no other unit, and the unit that moved makes its own step (that one unit moves
at a time, and which, is log entry 14). -/
def Obligations.UnitsShareNothing : Prop :=
  ∀ (units : List State) (k j : Nat),
    (j ≠ k → (stepUnit k units)[j]? = units[j]?) ∧
    (∀ s t, units[k]? = some s → step s = .next t → (stepUnit k units)[k]? = some t) ∧
    (stepUnit k units).length = units.length

/-! ### A busy unit (`70_reset_and_hazards.md` R111) -/

/-- The liveness clause of R111 for a busy unit, bounded, in the implementation of log entry 6. A command in flight with `n`
cycles still to wait is completed `n + 1` cycles later, with its response or its abort, and `cmd_ready` is 0 until then. After
that `cmd_ready` is 1 exactly when the command did not abort; and a command that the host holds on the ports meanwhile is
accepted in the next cycle if the one before it did not abort, whatever its own `op`, and not accepted if it did. -/
def Obligations.BusyUnitBecomesReady : Prop :=
  ∀ (latency : OpSel → Nat) (st : Status) (n : Nat) (w : CmdWord), st.aborted = false →
    (∀ later : List PortIn, (∀ q ∈ later, q.rst = false) → later.length = n + 1 →
      ∃ u outs, busyCycles latency { status := st, inFlight := some (n, w) } later = (u, outs) ∧ u.inFlight = none ∧
        outs.map PortOut.cmdReady = List.replicate (n + 1) false ∧
        responsesOf outs = (contract (decode w)).toList ∧
        (abortCause (decode w) = none → u.status = st) ∧
        (∀ c, abortCause (decode w) = some c → u.status = { aborted := true, abortCode := c.code }) ∧
        (∀ p : PortIn, p.rst = false → (busyCycle latency u p).2.cmdReady = (abortCause (decode w)).isNone)) ∧
    (∀ p : PortIn, p.rst = false → p.cmdValid = true →
      acceptedOf (List.replicate (n + 2) p)
        (busyCycles latency { status := st, inFlight := some (n, w) } (List.replicate (n + 2) p)).2 =
        if (abortCause (decode w)).isNone then [p.word] else [])
end

