-- ==== Sys2Proof/Laws/Arithmetic.lean ====
section
/-! SUPPORT. The three arithmetic functions as numbers and as the operations of `BitVec`. -/

namespace Sys2Proof.Machine

theorem u128Add_eq (l r : U128) : u128Add l r = l + r := by
  apply BitVec.eq_of_toNat_eq; simp [u128Add]

theorem u128Mul_eq (l r : U128) : u128Mul l r = l * r := by
  apply BitVec.eq_of_toNat_eq; simp [u128Mul]

theorem u128Sub_toNat (l r : U128) : (u128Sub l r).toNat = (2 ^ 128 + l.toNat - r.toNat) % 2 ^ 128 := by
  have hl := l.isLt
  have hr := r.isLt
  simp only [u128Sub, BitVec.toNat_ofInt]
  omega

theorem u128Sub_eq (l r : U128) : u128Sub l r = l - r := by
  apply BitVec.eq_of_toNat_eq
  rw [u128Sub_toNat, BitVec.toNat_sub]
  have hr := r.isLt
  congr 1
  omega

end Sys2Proof.Machine
end

