-- ==== Sys2Proof/Laws/Decode.lean ====
section
/-! SUPPORT. The fields of a command word that was joined from its fields, and each row of the operation map. -/

namespace Sys2Proof

/-- A command word as a number: the three fields at their weights (`30_encoding.md` R31). -/
theorem commandWord_toNat (op : OpSel) (l r : U128) :
    (commandWord op l r).toNat = op.toNat * 2 ^ 256 + l.toNat * 2 ^ 128 + r.toNat := by
  simp only [commandWord, append_toNat]
  omega

@[simp] theorem opField_commandWord (op : OpSel) (l r : U128) : opField (commandWord op l r) = op := by
  apply BitVec.eq_of_toNat_eq
  rw [opField, BitVec.extractLsb'_toNat, commandWord_toNat, Nat.shiftRight_eq_div_pow]
  have := op.isLt
  have := l.isLt
  have := r.isLt
  omega

@[simp] theorem lhsField_commandWord (op : OpSel) (l r : U128) : lhsField (commandWord op l r) = l := by
  apply BitVec.eq_of_toNat_eq
  rw [lhsField, BitVec.extractLsb'_toNat, commandWord_toNat, Nat.shiftRight_eq_div_pow]
  have := op.isLt
  have := l.isLt
  have := r.isLt
  omega

@[simp] theorem rhsField_commandWord (op : OpSel) (l r : U128) : rhsField (commandWord op l r) = r := by
  apply BitVec.eq_of_toNat_eq
  rw [rhsField, BitVec.extractLsb'_toNat, commandWord_toNat, Nat.shiftRight_eq_div_pow]
  have := op.isLt
  have := l.isLt
  have := r.isLt
  omega

theorem decode_commandWord (op : OpSel) (l r : U128) : decode (commandWord op l r) = selectOp op l r := by
  simp [decode]

/-- Two values of `op` that agree in their four bits are one. -/
theorem selectOp_op (op : OpSel) (l r : U128) : (selectOp op l r).op = op := by
  have bits : op = BitVec.ofBoolListBE [op[3], op[2], op[1], op[0]] := by revert op; decide
  unfold selectOp
  rw [bits]
  cases op[3] <;> cases op[2] <;> cases op[1] <;> cases op[0] <;> rfl

theorem selectOp_lhs (op : OpSel) (l r : U128) : (selectOp op l r).lhs = l := by
  unfold selectOp; split <;> rfl

theorem selectOp_rhs (op : OpSel) (l r : U128) : (selectOp op l r).rhs = r := by
  unfold selectOp; split <;> rfl

end Sys2Proof
end

