-- ==== Sys2Proof/Laws/Latency.lean ====
section
/-! SUPPORT. What a cycle without reset does to a unit with a command in flight, and how the lists of a sequence of cycles
grow by one cycle: the rewriting steps of an induction over cycles. -/

namespace Sys2Proof.Machine

/-- A command with cycles still to wait waits one less; nothing is accepted or answered. -/
theorem busyCycle_waiting (latency : OpSel → Nat) (st : Status) (k : Nat) (w : CmdWord) {p : PortIn} (h : p.rst = false) :
    busyCycle latency { status := st, inFlight := some (k + 1, w) } p =
      ({ status := st, inFlight := some (k, w) }, portsOut st false none) := by simp [busyCycle, h]

/-- A command with no cycle left is completed; nothing is accepted in that cycle. -/
theorem busyCycle_completing (latency : OpSel → Nat) (st : Status) (w : CmdWord) {p : PortIn} (h : p.rst = false) :
    busyCycle latency { status := st, inFlight := some (0, w) } p =
      ({ status := (perform st w).1, inFlight := none }, portsOut st false (perform st w).2) := by simp [busyCycle, h]

theorem responsesOf_append (a b : List PortOut) : responsesOf (a ++ b) = responsesOf a ++ responsesOf b :=
  List.filterMap_append

/-- The response on the ports of one cycle is the one that was put there. -/
theorem responsesOf_portsOut (st : Status) (ready : Bool) (rsp : Option Response) :
    responsesOf [portsOut st ready rsp] = rsp.toList := by cases rsp <;> simp [responsesOf, portsOut]

end Sys2Proof.Machine
end

