-- ==== Sys2Proof/Laws/Operands.lean ====
section
/-! SUPPORT. The views as numbers: each is the spec's slice, floor and remainder. -/

namespace Sys2Proof.Machine

theorem hi_toNat (v : U128) : (hi v).toNat = v.toNat / 2 ^ 64 % 2 ^ 64 := by
  simp [hi, BitVec.extractLsb'_toNat, Nat.shiftRight_eq_div_pow]

theorem lo_toNat (v : U128) : (lo v).toNat = v.toNat % 2 ^ 64 := by
  simp [lo, BitVec.extractLsb'_toNat]

theorem w32_toNat (v : U128) (k : Fin 4) : (w32 v k).toNat = v.toNat / 2 ^ (32 * k.val) % 2 ^ 32 := by
  simp [w32, BitVec.extractLsb'_toNat, Nat.shiftRight_eq_div_pow]

theorem joinLimbs_toNat (s3 s2 s1 s0 : W32) :
    (joinLimbs s3 s2 s1 s0).toNat = s3.toNat * 2 ^ 96 + s2.toNat * 2 ^ 64 + s1.toNat * 2 ^ 32 + s0.toNat := by
  simp only [joinLimbs, fromU32Be, append_toNat]
  omega

/-- A value is the weighted sum of its four limbs (`00_scope.md` R6). -/
theorem toNat_eq_limbs (v : U128) :
    v.toNat = (w32 v 3).toNat * 2 ^ 96 + (w32 v 2).toNat * 2 ^ 64 + (w32 v 1).toNat * 2 ^ 32 + (w32 v 0).toNat := by
  have := v.isLt
  rw [w32_toNat, w32_toNat, w32_toNat, w32_toNat]
  simp only [Fin.val_zero, Fin.val_one, Fin.val_two, show (3 : Fin 4).val = 3 from rfl]
  omega

end Sys2Proof.Machine
end

