-- ==== Sys2Proof/Laws/State.lean ====
section
/-! SUPPORT. One lemma per field per update of `State`, so that no proof unfolds a record update. -/

namespace Sys2Proof.Machine

@[simp] theorem Status.reset_aborted : Status.reset.aborted = false := rfl
@[simp] theorem Status.reset_abortCode : Status.reset.abortCode = 0#2 := rfl

@[simp] theorem State.reset_status : State.reset.status = Status.reset := rfl
@[simp] theorem State.reset_script : State.reset.script = [] := rfl
@[simp] theorem State.reset_responses : State.reset.responses = [] := rfl

@[simp] theorem State.capture_status (s : State) (r : Response) : (s.capture r).status = s.status := rfl
@[simp] theorem State.capture_script (s : State) (r : Response) : (s.capture r).script = s.script := rfl
@[simp] theorem State.capture_responses (s : State) (r : Response) :
    (s.capture r).responses = s.responses ++ [r] := rfl

@[simp] theorem State.applyReset_status (s : State) : s.applyReset.status = Status.reset := rfl
@[simp] theorem State.applyReset_script (s : State) : s.applyReset.script = s.script := rfl
@[simp] theorem State.applyReset_responses (s : State) : s.applyReset.responses = s.responses := rfl

@[simp] theorem State.present_status (s : State) (w : CmdWord) : (s.present w).status = s.status := rfl
@[simp] theorem State.present_responses (s : State) (w : CmdWord) : (s.present w).responses = s.responses := rfl
@[simp] theorem State.present_script (s : State) (w : CmdWord) :
    (s.present w).script = HostAction.present w :: s.script := rfl

@[simp] theorem HostAction.present_rst (w : CmdWord) : (HostAction.present w).rst = false := rfl
@[simp] theorem HostAction.present_cmd (w : CmdWord) : (HostAction.present w).cmd = some w := rfl

end Sys2Proof.Machine
end

