-- ==== Sys2Proof/Laws/Ops.lean ====
section
/-! SUPPORT. One spec lemma for each shared operation, and the inversion of `exec` and of `step`: what each can do, said
once, to be cited instead of unfolding. -/

namespace Sys2Proof.Machine

theorem accept_of_running {s : State} (k : State → Host.Outcome State Fault Refusal) (h : s.status.aborted = false) :
    accept s k = k s := by simp [accept, h]

theorem accept_of_aborted {s : State} (k : State → Host.Outcome State Fault Refusal) (h : s.status.aborted = true) :
    accept s k = .fault .stuckAborted := by simp [accept, h]

theorem respond_of_running {s : State} (value : U128) (flag : Bool) (h : s.status.aborted = false) :
    respond value flag s = .next (s.capture { value := value, flag := flag }) := accept_of_running _ h

theorem raiseAbort_of_running {s : State} (cause : AbortCause) (h : s.status.aborted = false) :
    raiseAbort cause s = .next { s with status := { aborted := true, abortCode := cause.code } } :=
  accept_of_running _ h

/-- All that `respond` can do when it answers a next state. -/
theorem respond_next {value : U128} {flag : Bool} {s t : State} (h : respond value flag s = .next t) :
    s.status.aborted = false ∧ t = s.capture { value := value, flag := flag } := by
  cases hs : s.status.aborted with
  | true => rw [respond, accept_of_aborted _ hs] at h; cases h
  | false => rw [respond_of_running _ _ hs] at h; cases h; exact ⟨rfl, rfl⟩

/-- All that `raiseAbort` can do when it answers a next state. -/
theorem raiseAbort_next {cause : AbortCause} {s t : State} (h : raiseAbort cause s = .next t) :
    s.status.aborted = false ∧ t = { s with status := { aborted := true, abortCode := cause.code } } := by
  cases hs : s.status.aborted with
  | true => rw [raiseAbort, accept_of_aborted _ hs] at h; cases h
  | false => rw [raiseAbort_of_running _ hs] at h; cases h; exact ⟨rfl, rfl⟩

/-- A code that a cause writes is neither 0 nor 3. -/
theorem AbortCause.code_legal (c : AbortCause) : c.code ≠ 0#2 ∧ c.code ≠ 3#2 := by cases c <;> decide

/-- Every meaning is one `respond` or one `raiseAbort`, with arguments that do not read the state. -/
theorem exec_shape (i : Instr) :
    (∃ value flag, ∀ s, exec i s = respond value flag s) ∨ (∃ cause, ∀ s, exec i s = raiseAbort cause s) := by
  cases i
  case div => exact .inr ⟨_, fun _ => rfl⟩
  case mod => exact .inr ⟨_, fun _ => rfl⟩
  case reserved5 => exact .inr ⟨_, fun _ => rfl⟩
  case reserved6 => exact .inr ⟨_, fun _ => rfl⟩
  case reserved7 => exact .inr ⟨_, fun _ => rfl⟩
  case reservedE => exact .inr ⟨_, fun _ => rfl⟩
  case reservedF => exact .inr ⟨_, fun _ => rfl⟩
  all_goals exact .inl ⟨_, _, fun _ => rfl⟩

/-- What `exec` can do when it answers a next state: capture one response, or set the abort. -/
theorem exec_next {i : Instr} {s t : State} (h : exec i s = .next t) :
    s.status.aborted = false ∧ ((∃ r, t = s.capture r) ∨
      ∃ cause : AbortCause, t = { s with status := { aborted := true, abortCode := cause.code } }) := by
  obtain ⟨v, f, hi⟩ | ⟨c, hi⟩ := exec_shape i
  · obtain ⟨hs, rfl⟩ := respond_next (hi s ▸ h); exact ⟨hs, .inl ⟨_, rfl⟩⟩
  · obtain ⟨hs, rfl⟩ := raiseAbort_next (hi s ▸ h); exact ⟨hs, .inr ⟨_, rfl⟩⟩

/-- What `step` can do when it answers a next state, with the guard of each case. -/
theorem step_next {s t : State} (h : step s = .next t) :
    (s.script = [] ∧ t = s) ∨
    (∃ a rest, s.script = a :: rest ∧
      ((a.rst = true ∧ t = { s with status := Status.reset, script := rest }) ∨
       (a.rst = false ∧ a.cmd = none ∧ t = { s with script := rest }) ∨
       (∃ w, a.rst = false ∧ a.cmd = some w ∧ exec (decode w) { s with script := rest } = .next t))) := by
  unfold step at h
  cases hs : s.script with
  | nil => rw [hs] at h; cases h; exact .inl ⟨rfl, rfl⟩
  | cons a rest =>
    rw [hs] at h
    refine .inr ⟨a, rest, rfl, ?_⟩
    cases hr : a.rst with
    | true => simp only [takeAction, hr, if_true] at h; cases h; exact .inl ⟨rfl, rfl⟩
    | false =>
      cases hc : a.cmd with
      | none => simp [takeAction, hr, hc] at h; exact .inr (.inl ⟨rfl, rfl, h.symm⟩)
      | some w => simp [takeAction, hr, hc] at h; exact .inr (.inr ⟨w, rfl, rfl, h⟩)

end Sys2Proof.Machine
end

