-- ==== Sys2Proof/Laws/PerInstr.lean ====
section
/-! SUPPORT. A statement about every command as syntax, proved constructor by constructor. -/

namespace Sys2Proof.Laws.TableRow

/-- The encoded word passes the row's test of the opcode table: masked with `mask`, it is `match`
(`30_encoding.md` R32). -/
def Statement (i : Instr) : Prop := encode i &&& opMask = opMatch i.op

/-- The table's test looks at the field `op` alone. -/
theorem masked (op : OpSel) (l r : U128) : commandWord op l r &&& opMask = opMatch op := by
  have hm : opMask = commandWord (BitVec.allOnes 4) 0 0 := by decide
  rw [hm, opMatch, commandWord, commandWord, commandWord, BitVec.and_append, BitVec.and_append, BitVec.and_allOnes,
    BitVec.ofNat_eq_ofNat, BitVec.and_zero, BitVec.and_zero]

theorem add (l r : U128) : Statement (.add l r) := masked _ _ _
theorem sub (l r : U128) : Statement (.sub l r) := masked _ _ _
theorem mul (l r : U128) : Statement (.mul l r) := masked _ _ _
theorem div (l r : U128) : Statement (.div l r) := masked _ _ _
theorem mod (l r : U128) : Statement (.mod l r) := masked _ _ _
theorem reserved5 (l r : U128) : Statement (.reserved5 l r) := masked _ _ _
theorem reserved6 (l r : U128) : Statement (.reserved6 l r) := masked _ _ _
theorem reserved7 (l r : U128) : Statement (.reserved7 l r) := masked _ _ _
theorem eq (l r : U128) : Statement (.eq l r) := masked _ _ _
theorem ne (l r : U128) : Statement (.ne l r) := masked _ _ _
theorem lt (l r : U128) : Statement (.lt l r) := masked _ _ _
theorem le (l r : U128) : Statement (.le l r) := masked _ _ _
theorem gt (l r : U128) : Statement (.gt l r) := masked _ _ _
theorem ge (l r : U128) : Statement (.ge l r) := masked _ _ _
theorem reservedE (l r : U128) : Statement (.reservedE l r) := masked _ _ _
theorem reservedF (l r : U128) : Statement (.reservedF l r) := masked _ _ _

end Sys2Proof.Laws.TableRow
end

