-- ==== Sys2Proof/Laws/Run.lean ====
section
/-! SUPPORT. Runs, packaged once: a run of `k + 1` steps is a step and a run of `k`; runs compose; and what every step keeps,
every run keeps. -/

namespace Sys2Proof.Safety

open Sys2Proof.Machine

theorem reaches_zero {s t : State} : Reaches s 0 t ↔ s = t := by
  constructor
  · intro h; cases h; rfl
  · rintro rfl; rfl

theorem reaches_succ {k : Nat} {s t : State} : Reaches s (k + 1) t ↔ ∃ u, step s = .next u ∧ Reaches u k t := by
  have unfolded : Sys2Proof.core.run (k + 1) s = Host.Outcome.casesOn (motive := fun _ => Host.Outcome State Fault Refusal)
      (step s) (fun u => Sys2Proof.core.run k u) .fault .refused := by
    cases h : step s <;> (have h' : Sys2Proof.core.step s = _ := h; simp [Host.Core.run, h'] <;> rfl)
  unfold Reaches
  rw [unfolded]
  cases step s <;> simp

theorem reaches_add {j k : Nat} {s t : State} : Reaches s (j + k) t ↔ ∃ u, Reaches s j u ∧ Reaches u k t := by
  induction j generalizing s with
  | zero => simp [reaches_zero]
  | succ j ih =>
    rw [Nat.succ_add, reaches_succ]
    constructor
    · rintro ⟨u, h, hu⟩
      obtain ⟨v, hv, ht⟩ := ih.1 hu
      exact ⟨v, reaches_succ.2 ⟨u, h, hv⟩, ht⟩
    · rintro ⟨v, hv, ht⟩
      obtain ⟨u, h, hu⟩ := reaches_succ.1 hv
      exact ⟨u, h, ih.2 ⟨v, hu, ht⟩⟩

/-- What holds of a state and is kept by every step holds at the end of every run from it. -/
theorem reaches_keeps {inv : State → Prop} (kept : ∀ s t, inv s → step s = .next t → inv t) {k : Nat} {s t : State}
    (hs : inv s) (h : Reaches s k t) : inv t := by
  induction k generalizing s with
  | zero => exact reaches_zero.1 h ▸ hs
  | succ k ih =>
    obtain ⟨u, hu, ht⟩ := reaches_succ.1 h
    exact ih (kept s u hs hu) ht

end Sys2Proof.Safety
end

