-- ==== Sys2Proof/Laws/ScriptText.lean ====
section
/-! SUPPORT. What the text functions of a script do to digits and words. -/

namespace Sys2Proof.Machine

/-- A written digit reads as itself, is no `_`, and belongs to a word. -/
theorem hexDigit_hexChar (d : Fin 16) :
    hexDigit (hexChar d.val) = some d.val ∧ hexChar d.val ≠ '_' ∧ isWordChar (hexChar d.val) = true := by
  revert d; decide

theorem hexText_length (n v : Nat) : (hexText n v).length = n := by
  induction n generalizing v with
  | zero => rfl
  | succ n ih => simp [hexText, ih]

/-- Word characters in front of a text are put in front of the word it begins with. -/
theorem scan_word_append (w cs : List Char) (h : ∀ c ∈ w, isWordChar c = true) :
    scan (w ++ cs) = (w ++ (scan cs).1, (scan cs).2) := by
  induction w with
  | nil => simp
  | cons c w ih => simp [scan, h c (by simp), ih fun x hx => h x (by simp [hx])]

end Sys2Proof.Machine
end

