-- ==== Sys2Proof/Laws/Structures.lean ====
section
/-! SUPPORT. What one limb of each structure computes, as an equation between numbers: the step of the telescoping sums of
`41_add_sub.md` R50 and R51. -/

namespace Sys2Proof.Machine

/-- A limb of the ripple adder: its sum and its carry account for the exact sum. -/
theorem addLimb_exact (x y : W32) (cin : Bool) :
    (addLimb x y cin).1.toNat + (addLimb x y cin).2.toNat * 2 ^ 32 = x.toNat + y.toNat + cin.toNat := by
  have hx := x.isLt
  have hy := y.isLt
  have hc : cin.toNat ≤ 1 := by cases cin <;> decide
  have carry : (x.toNat + y.toNat + cin.toNat) / 2 ^ 32 = 0 ∨ (x.toNat + y.toNat + cin.toNat) / 2 ^ 32 = 1 := by omega
  unfold addLimb
  rcases carry with h | h <;> simp only [h, BitVec.toNat_ofNat] <;> simp <;> omega

/-- A limb of the ripple subtractor: its difference and its borrow account for the exact difference. -/
theorem subLimb_exact (x y : W32) (bin : Bool) :
    ((subLimb x y bin).1.toNat : Int) - ((subLimb x y bin).2.toNat : Int) * 2 ^ 32 =
      (x.toNat : Int) - y.toNat - bin.toNat := by
  have hx := x.isLt
  have hy := y.isLt
  have hb : bin.toNat ≤ 1 := by cases bin <;> decide
  unfold subLimb
  by_cases h : (x.toNat : Int) - y.toNat - bin.toNat < 0
  · simp only [h, BitVec.toNat_ofInt, decide_true, Bool.toNat_true]; omega
  · simp only [h, BitVec.toNat_ofInt, decide_false, Bool.toNat_false]; omega

/-- A limb formed for both carries and then selected is the limb itself, whatever the limb does (R54). -/
theorem selectLimb_eq (limb : W32 → W32 → Bool → W32 × Bool) : selectLimb limb = limb := by
  funext x y cin
  cases cin <;> rfl

end Sys2Proof.Machine
end

