-- ==== Sys2Proof/Tests/Slice0.lean ====
section
/-! SUPPORT. Tests and witnesses. Every expected result is written out in the spec: the vectors of `95_test_vectors.md`, named
by their ids (A7, S5, M12, X1, ...), or the rule named. The second half shows, for each statement with hypotheses, a concrete
input that meets them. -/

namespace Sys2Proof.Tests

open Sys2Proof.Machine Sys2Proof.Safety

/-! ### The checks of `WellFormed.lean` refuse -/

/-- The number after the largest command word has a 66th hexadecimal digit. -/
theorem test_wider_number_is_no_command :
    fitsCommandWord 0x100000000000000000000000000000000000000000000000000000000000000000 = false ∧
    decodeTableWord 264 0x100000000000000000000000000000000000000000000000000000000000000000 = none := by decide

/-- R72, R107: neither `DIV`, `MOD` nor a reserved `op` is dutiful; the other nine are. -/
theorem test_undutiful_commands :
    [Instr.div 1 1, .mod 1 1, .reserved5 0 0, .reserved6 0 0, .reserved7 0 0, .reservedE 0 0, .reservedF 0 0].map
      Instr.dutiful = List.replicate 7 false ∧
    [Instr.add 1 1, .sub 1 1, .mul 1 1, .eq 1 1, .ne 1 1, .lt 1 1, .le 1 1, .gt 1 1, .ge 1 1].map
      Instr.dutiful = List.replicate 9 true := by decide

/-- R36: a `%label` of no earlier line, of the line itself, and of a later line. -/
theorem test_unresolved_labels :
    Script.wellFormed [] [⟨none, .ADD, .ref "a", .hex128 1⟩] = false ∧
    Script.wellFormed [] [⟨some "a", .ADD, .ref "a", .hex128 1⟩] = false ∧
    Script.wellFormed [] [⟨none, .ADD, .ref "a", .hex128 1⟩, ⟨some "a", .ADD, .hex128 1, .hex128 1⟩] = false ∧
    Script.wellFormed [] [⟨some "a", .ADD, .hex128 1, .hex128 1⟩, ⟨none, .ADD, .hex128 1, .ref "a"⟩] = true := by decide

/-- Log entry 9: two lines with one label. -/
theorem test_repeated_label :
    Script.wellFormed [] [⟨some "a", .ADD, .hex128 1, .hex128 1⟩, ⟨some "a", .SUB, .hex128 1, .hex128 1⟩] = false := by
  decide

/-- R72 at a script line. -/
theorem test_undutiful_line : ScriptLine.dutiful ⟨none, .DIV, .hex128 0x64, .hex128 7⟩ = false := by decide

/-! ### Decoding: words written out in the spec -/

/-- A7 -/
theorem test_decode_add :
    decodeTableWord 264 0x0000000000000000000000005FFFFFFFF0000000000000000FFFFFFFF00000001
      = some (.add 0x5FFFFFFFF 0xFFFFFFFF00000001) := by decide

/-- S7 -/
theorem test_decode_sub :
    decodeTableWord 264 0x10123456789ABCDEFFEDCBA9876543210DEADBEEFCAFEBABE0BADF00D8BADF00D
      = some (.sub 0x0123456789ABCDEFFEDCBA9876543210 0xDEADBEEFCAFEBABE0BADF00D8BADF00D) := by decide

/-- M11 -/
theorem test_decode_mul :
    decodeTableWord 264 0x20000000100000000000000000000000300000000000000000000000100000005
      = some (.mul 0x1000000000000000000000003 0x100000005) := by decide

/-- X1 -/
theorem test_decode_div :
    decodeTableWord 264 0x30000000000000000000000000000006400000000000000000000000000000007
      = some (.div 0x64 0x7) := by decide

/-- X2 -/
theorem test_decode_mod :
    decodeTableWord 264 0x40000000000000000000000000000006400000000000000000000000000000007
      = some (.mod 0x64 0x7) := by decide

/-- X6, X7, X8, X9, X10 -/
theorem test_decode_reserved :
    decodeTableWord 264 0x50000000000000000000000000000000000000000000000000000000000000000
      = some (.reserved5 0 0) ∧
    decodeTableWord 264 0x60123456789ABCDEFFEDCBA9876543210DEADBEEFCAFEBABE0BADF00D8BADF00D
      = some (.reserved6 0x0123456789ABCDEFFEDCBA9876543210 0xDEADBEEFCAFEBABE0BADF00D8BADF00D) ∧
    decodeTableWord 264 0x70000000000000000000000000000000000000000000000000000000000000000
      = some (.reserved7 0 0) ∧
    decodeTableWord 264 0xE0000000000000000000000000000000000000000000000000000000000000000
      = some (.reservedE 0 0) ∧
    decodeTableWord 264 0xFFFFFFFFFFFFFFFFFFFFFFFFFFFFFFFFFFFFFFFFFFFFFFFFFFFFFFFFFFFFFFFFF
      = some (.reservedF 0xFFFFFFFFFFFFFFFFFFFFFFFFFFFFFFFF 0xFFFFFFFFFFFFFFFFFFFFFFFFFFFFFFFF) := by decide

/-- Q8, one word for each comparison -/
theorem test_decode_comparisons :
    decodeTableWord 264 0x80000000000000001000000000000000500000000000000010000000000000007
      = some (.eq 0x10000000000000005 0x10000000000000007) ∧
    decodeTableWord 264 0x90000000000000001000000000000000500000000000000010000000000000007
      = some (.ne 0x10000000000000005 0x10000000000000007) ∧
    decodeTableWord 264 0xA0000000000000001000000000000000500000000000000010000000000000007
      = some (.lt 0x10000000000000005 0x10000000000000007) ∧
    decodeTableWord 264 0xB0000000000000001000000000000000500000000000000010000000000000007
      = some (.le 0x10000000000000005 0x10000000000000007) ∧
    decodeTableWord 264 0xC0000000000000001000000000000000500000000000000010000000000000007
      = some (.gt 0x10000000000000005 0x10000000000000007) ∧
    decodeTableWord 264 0xD0000000000000001000000000000000500000000000000010000000000000007
      = some (.ge 0x10000000000000005 0x10000000000000007) := by decide

/-! ### One command each, run by `step` from the reset state -/

/-- The next state of a step, if it answers one. -/
def nextOf : Host.Outcome State Fault Refusal → Option State
  | .next t => some t
  | .fault _ => none
  | .refused _ => none

/-- The fault of a step, if it faults. -/
def faultOf : Host.Outcome State Fault Refusal → Option Fault
  | .next _ => none
  | .fault f => some f
  | .refused _ => none

/-- One step after reset, on a command word of the spec. -/
def stepOn (w : Nat) : Option State := nextOf (step (State.reset.withFetchWord 264 w))

/-- The state after a step from reset that answers this response. -/
def answers (value : U128) (flag : Bool) : Option State :=
  some { status := { aborted := false, abortCode := 0 }, script := [], responses := [{ value := value, flag := flag }] }

/-- The state after a step from reset that aborts with this code. -/
def aborts (code : BitVec 2) : Option State :=
  some { status := { aborted := true, abortCode := code }, script := [], responses := [] }

/-- A3 (E4) -/
theorem test_add_wraps :
    stepOn 0x0FFFFFFFFFFFFFFFFFFFFFFFFFFFFFFFF00000000000000000000000000000001 = answers 0 false := by decide

/-- A10 -/
theorem test_add_general :
    stepOn 0x00123456789ABCDEFFEDCBA9876543210DEADBEEFCAFEBABE0BADF00D8BADF00D
      = answers 0xDFD1045754AA88AE0A8AAAA60202221D false := by decide

/-- S5 -/
theorem test_sub_borrows_through_a_full_limb :
    stepOn 0x1000000000000000000000005000000000000000000000000FFFFFFFF00000001
      = answers 0xFFFFFFFFFFFFFFFF00000005FFFFFFFF false := by decide

/-- S8 -/
theorem test_sub_general :
    stepOn 0x1DEADBEEFCAFEBABE0BADF00D8BADF00D0123456789ABCDEFFEDCBA9876543210
      = answers 0xDD8A79884152ECCE0CD135751559BDFD false := by decide

/-- M5: the product the source's printed list omits (`90_conflicts.md` C2) -/
theorem test_mul_uses_Bc :
    stepOn 0x20000000000000000000000010000000000000000000000010000000000000000
      = answers 0x00000001000000000000000000000000 false := by decide

/-- M12 -/
theorem test_mul_general :
    stepOn 0x20123456789ABCDEFFEDCBA9876543210DEADBEEFCAFEBABE0BADF00D8BADF00D
      = answers 0x6B1CCBA75A5A4E333771A19176058AD0 false := by decide

/-- X1 -/
theorem test_div_aborts :
    stepOn 0x30000000000000000000000000000006400000000000000000000000000000007 = aborts 1 := by decide

/-- X3: a zero divisor is not a separate case -/
theorem test_div_by_zero_aborts_alike :
    stepOn 0x30000000000000000000000000000006400000000000000000000000000000000 = aborts 1 := by decide

/-- X5 -/
theorem test_mod_aborts :
    stepOn 0x40123456789ABCDEFFEDCBA98765432100123456789ABCDEFFEDCBA9876543210 = aborts 1 := by decide

/-- X6, X7, X8, X9, X10 -/
theorem test_reserved_abort :
    stepOn 0x50000000000000000000000000000000000000000000000000000000000000000 = aborts 2 ∧
    stepOn 0x60123456789ABCDEFFEDCBA9876543210DEADBEEFCAFEBABE0BADF00D8BADF00D = aborts 2 ∧
    stepOn 0x70000000000000000000000000000000000000000000000000000000000000000 = aborts 2 ∧
    stepOn 0xE0000000000000000000000000000000000000000000000000000000000000000 = aborts 2 ∧
    stepOn 0xFFFFFFFFFFFFFFFFFFFFFFFFFFFFFFFFFFFFFFFFFFFFFFFFFFFFFFFFFFFFFFFFF = aborts 2 := by decide

/-- Q12 and Q16 -/
theorem test_eq :
    stepOn 0x80123456789ABCDEFFEDCBA98765432100123456789ABCDEFFEDCBA9876543210 = answers 0 true ∧
    stepOn 0x80000000100000000000000000000000000000000000000000000000000000001 = answers 0 false := by decide

/-- Q8 and Q4 -/
theorem test_ne :
    stepOn 0x90000000000000001000000000000000500000000000000010000000000000007 = answers 0 true ∧
    stepOn 0x9FFFFFFFFFFFFFFFFFFFFFFFFFFFFFFFFFFFFFFFFFFFFFFFFFFFFFFFFFFFFFFFF = answers 0 false := by decide

/-- Q7: the high halves decide; Q10: no signed reading -/
theorem test_lt :
    stepOn 0xA0000000000000000FFFFFFFFFFFFFFFF00000000000000010000000000000000 = answers 0 true ∧
    stepOn 0xA800000000000000000000000000000007FFFFFFFFFFFFFFFFFFFFFFFFFFFFFFF = answers 0 false := by decide

/-- Q1 and Q9 -/
theorem test_le :
    stepOn 0xB0000000000000000000000000000000000000000000000000000000000000000 = answers 0 true ∧
    stepOn 0xB0000000000000002000000000000000500000000000000010000000000000007 = answers 0 false := by decide

/-- Q14: limb 1 decides; Q1 -/
theorem test_gt :
    stepOn 0xC00000000000000000000000100000000000000000000000000000000FFFFFFFF = answers 0 true ∧
    stepOn 0xC0000000000000000000000000000000000000000000000000000000000000000 = answers 0 false := by decide

/-- Q15 and Q2 -/
theorem test_ge :
    stepOn 0xD8000000000000000000000000000000180000000000000000000000000000000 = answers 0 true ∧
    stepOn 0xD0000000000000000000000000000000000000000000000000000000000000001 = answers 0 false := by decide

/-! ### The aborted state and reset -/

/-- `STATUS = (1, 1)` and `(1, 2)` -/
def abortedBy (code : BitVec 2) : Status := { aborted := true, abortCode := code }

/-- `ADD 0x1, 0x1` -/
def addOneOne : CmdWord := encode (.add 1 1)

/-- X11, X12, X13 -/
theorem test_aborted_unit_is_stuck :
    faultOf (step ⟨abortedBy 1, [.present addOneOne], []⟩) = some .stuckAborted ∧
    faultOf (step ⟨abortedBy 1, [.present (encode (.reservedF 0 0))], []⟩) = some .stuckAborted ∧
    faultOf (step ⟨abortedBy 2, [.present (encode (.div 1 1))], []⟩) = some .stuckAborted := by decide

/-- X14, and X16 with the command in the cycle of the reset -/
theorem test_reset_clears_and_wins :
    nextOf (step ⟨abortedBy 1, [⟨true, some addOneOne⟩], []⟩) = some ⟨⟨false, 0⟩, [], []⟩ ∧
    nextOf (step ⟨abortedBy 2, [⟨true, none⟩], []⟩) = some ⟨⟨false, 0⟩, [], []⟩ ∧
    nextOf (step ⟨⟨false, 0⟩, [⟨true, some (encode (.div 1 1))⟩], []⟩) = some ⟨⟨false, 0⟩, [], []⟩ := by decide

/-- R14: the bits of `STATUS`; R31: the flag above the value -/
theorem test_status_and_response_words :
    (abortedBy 1).word = 0b011#3 ∧ (abortedBy 2).word = 0b101#3 ∧
    (Response.word ⟨1, true⟩).toNat = 0x100000000000000000000000000000001 := by decide

/-- X1 and X11 at the ports: no response in the cycle of the abort, then `abort = 1`, `abort_code = 1`, `cmd_ready = 0` -/
theorem test_ports_around_an_abort :
    (cycles ⟨false, 0⟩ [⟨false, true, 3, 0x64, 7⟩, ⟨false, true, 0, 1, 1⟩]).2 =
      [⟨true, false, 0, false, false, 0⟩, ⟨false, false, 0, false, true, 1⟩] := by decide

/-- X15 at the ports, after an idle cycle and a reset cycle -/
theorem test_ports_around_a_reset :
    (cycles ⟨true, 1⟩ [⟨false, false, 0, 0, 0⟩, ⟨true, false, 0, 0, 0⟩, ⟨false, true, 0, 1, 1⟩]).2 =
      [⟨false, false, 0, false, true, 1⟩, ⟨false, false, 0, false, true, 1⟩, ⟨true, true, 2, false, false, 0⟩] := by decide

/-! ### Representation -/

/-- `A` of `95_test_vectors.md` -/
def valueA : U128 := 0x0123456789ABCDEFFEDCBA9876543210

/-- V1 to V7, at both ends of each index range, and V18 -/
theorem test_views :
    hi valueA = 0x0123456789ABCDEF ∧ lo valueA = 0xFEDCBA9876543210 ∧
    be64 valueA 0 = 0x0123456789ABCDEF ∧ be64 valueA 1 = 0xFEDCBA9876543210 ∧
    be32 valueA 0 = 0x01234567 ∧ be32 valueA 2 = 0xFEDCBA98 ∧ be32 valueA 3 = 0x76543210 ∧
    w32 valueA 0 = 0x76543210 ∧ w32 valueA 3 = 0x01234567 ∧
    be16 valueA 0 = 0x0123 ∧ be16 valueA 1 = 0x4567 ∧ be16 valueA 7 = 0x3210 ∧
    be8 valueA 0 = 0x01 ∧ be8 valueA 8 = 0xFE ∧ be8 valueA 15 = 0x10 ∧
    be64 valueA 0 = be32 valueA 0 ++ be32 valueA 1 := by decide

/-- V8, V9, V12 to V17 -/
theorem test_constructors :
    fromU32Be 0x01234567 0x89ABCDEF 0xFEDCBA98 0x76543210 = valueA ∧
    fromU64Be 0x0123456789ABCDEF 0xFEDCBA9876543210 = valueA ∧
    fromU64Be 1 0 = 0x10000000000000000 ∧
    fromU64Be 0xFFFFFFFFFFFFFFFF 0xFFFFFFFFFFFFFFFF = 0xFFFFFFFFFFFFFFFFFFFFFFFFFFFFFFFF ∧
    fromU32Be 0 0 0 0xABCDEF01 = 0xABCDEF01 ∧ fromU32Be 1 0 0 0 = 0x1000000000000000000000000 ∧
    fromU32Be 0x80000000 0 0 0 = 0x80000000000000000000000000000000 ∧ be32 (fromU32Be 1 2 3 4) 2 = 3 := by decide

/-- The memory image of `A`, section 2 of `95_test_vectors.md` -/
theorem test_memory_image :
    (memImage .big valueA).toList =
      [0x01, 0x23, 0x45, 0x67, 0x89, 0xAB, 0xCD, 0xEF, 0xFE, 0xDC, 0xBA, 0x98, 0x76, 0x54, 0x32, 0x10] ∧
    (memImage .little valueA).toList =
      [0x10, 0x32, 0x54, 0x76, 0x98, 0xBA, 0xDC, 0xFE, 0xEF, 0xCD, 0xAB, 0x89, 0x67, 0x45, 0x23, 0x01] ∧
    (physical32 .little valueA).toList = [0x76543210, 0xFEDCBA98, 0x89ABCDEF, 0x01234567] ∧
    readElement32 .little (memImage .little valueA) 3 = 0x01234567 := by decide

/-! ### The structures -/

/-- K1, K5, K6, K8, K10, K12, K15, K16 -/
theorem test_comparators :
    cmp32Lt 0 0 = false ∧ cmp32Lt 0x7FFFFFFF 0x80000000 = true ∧ cmp32Lt 0x80000000 0x7FFFFFFF = false ∧
    cmp32Eq 0xFFFFFFFF 0xFFFFFFFF = true ∧ cmp64Lt 0x100000000 0xFFFFFFFF = false ∧
    cmp64Lt 0x500000007 0x500000008 = true ∧ cmp64Eq 0x500000007 0x700000005 = false ∧
    cmp64Lt 0x7FFFFFFFFFFFFFFF 0x8000000000000000 = true := by decide

/-- KA3, KA5, KA10, KA11; KS3, KS5, KS8, KS9 -/
theorem test_carry_and_borrow_tests :
    carryTest32 5 0 false = false ∧ carryTest32 5 0xFFFFFFFF true = true ∧
    carryTest32 0x7FFFFFFF 0x80000000 false = false ∧ carryTest32 0x7FFFFFFF 0x80000000 true = true ∧
    borrowTest32 5 0 false = false ∧ borrowTest32 5 0xFFFFFFFF true = true ∧
    borrowTest32 0xFFFFFFFF 0xFFFFFFFF false = false ∧ borrowTest32 0xFFFFFFFF 0xFFFFFFFF true = true := by decide

/-- A7 and A12: the carries; S5 and S7: the borrows -/
theorem test_limb_chains :
    rippleAdd 0x5FFFFFFFF 0xFFFFFFFF00000001 = ⟨0x10000000500000000, true, true, false, false⟩ ∧
    rippleAdd 0xFFFFFFFF00000000FFFFFFFF 0x10000000000000001 = ⟨0x1000000000000000100000000, true, false, true, false⟩ ∧
    rippleSub 0x500000000 0xFFFFFFFF00000001 = ⟨0xFFFFFFFFFFFFFFFF00000005FFFFFFFF, true, true, true, true⟩ ∧
    rippleSub valueA 0xDEADBEEFCAFEBABE0BADF00D8BADF00D =
      ⟨0x22758677BEAD1331F32ECA8AEAA64203, true, false, true, true⟩ := by decide

/-- M20, M21, M22: the column sums and the values -/
theorem test_multiplier_columns :
    mulColumns 0x1FFFFFFFF 0x1FFFFFFFF = ⟨0x1, 0x2FFFFFFFC, 0x3, 0x0⟩ ∧
    mulColumns 0x8000000100000001E76C0E2EFFFFFFFF 0xFFFFFFFF00000001EBEEDC37FFFFFFFF =
      ⟨0x1, 0x12CA51599, 0x4D0857E44, 0x328A308F4⟩ ∧
    (mulColumns 0x8000000100000001E76C0E2EFFFFFFFF 0xFFFFFFFF00000001EBEEDC37FFFFFFFF).value =
      0x28A308F4D0857E442CA5159900000001 ∧
    mulColumns 0x0000000180000001FFFFFFFEFFFFFFFF 0x0000000180000001FFFFFFFEFFFFFFFF =
      ⟨0x1, 0x100000002, 0x2FFFFFFFD, 0x5FFFFFFF8⟩ := by decide

/-! ### Scripts -/

/-- Lines of P5 and P1 as text: a label, groups of digits, two blanks, the operand forms -/
theorem test_read_lines :
    readLine "lo = ADD 0xDEADBEEF_CAFEBABE_0BADF00D_8BADF00D, 0x1".toList =
      some ⟨some "lo", .ADD, .hex128 0xDEADBEEFCAFEBABE0BADF00D8BADF00D, .hex128 1⟩ ∧
    readLine "w1 = LT  %n1, u64be(0x0, 0xFFFFFFFFFFFFFFFF)".toList =
      some ⟨some "w1", .LT, .ref "n1", .u64be 0 0xFFFFFFFFFFFFFFFF⟩ ∧
    readLine "GE u32be(0x1, 0x2, 0x3, 0x4), 0x0".toList = some ⟨none, .GE, .u32be 1 2 3 4, .hex128 0⟩ := by decide

/-- R36: an unknown mnemonic, no digit, 33 digits, a `_` at the end, a missing operand, a third operand, 17 digits in a half -/
theorem test_unreadable_lines :
    readLine "NEG 0x1, 0x1".toList = none ∧ readLine "ADD 0x, 0x1".toList = none ∧
    readLine "ADD 0x000000000000000000000000000000001, 0x1".toList = none ∧ readLine "ADD 0x1_, 0x1".toList = none ∧
    readLine "ADD 0x1".toList = none ∧ readLine "ADD 0x1, 0x1, 0x1".toList = none ∧
    readLine "ADD u64be(0x0, 0x00000000000000001), 0x1".toList = none := by decide

/-- P1, its third and fourth line -/
theorem test_script_counter_wraps :
    runText ["n2 = ADD 0xFFFFFFFF_FFFFFFFF_FFFFFFFF_FFFFFFFF, 0x1".toList,
        "w2 = LT  %n2, 0xFFFFFFFF_FFFFFFFF_FFFFFFFF_FFFFFFFF".toList] =
      some ⟨[⟨0, false⟩, ⟨0, true⟩], ⟨false, 0⟩, .finished⟩ := by decide

/-- P4, and its variant in which the third line uses the value `q` never got -/
theorem test_script_that_aborts :
    runText ["s = ADD 0x5, 0x7".toList, "q = DIV 0x64, 0x7".toList, "u = ADD 0x1, 0x1".toList] =
      some ⟨[⟨0xC, false⟩], ⟨true, 1⟩, .stuck⟩ ∧
    runText ["s = ADD 0x5, 0x7".toList, "q = DIV 0x64, 0x7".toList, "u = ADD %q, 0x1".toList] =
      some ⟨[⟨0xC, false⟩], ⟨true, 1⟩, .noMeaning⟩ := by decide

/-- P4 without its third line: the host has no further command (R113), and the run has gone wrong (log entry 16) -/
theorem test_script_whose_last_line_aborts :
    runText ["s = ADD 0x5, 0x7".toList, "q = DIV 0x64, 0x7".toList] =
      some ⟨[⟨0xC, false⟩], ⟨true, 1⟩, .finished⟩ := by decide

/-- The encoding of `LT` in row Q8, as text -/
theorem test_word_text :
    wordText (encode (.lt 0x10000000000000005 0x10000000000000007)) =
      "A0000000000000001000000000000000500000000000000010000000000000007".toList := by decide

/-! ### Witnesses: inputs that meet the hypotheses of the statements -/

/-- `StepRunsTheDecodedCommand`: an accepted command, and one that is not. -/
theorem witness_step_runs_the_decoded_command :
    (∃ (s : State) (rest : List HostAction) (w : CmdWord),
      s.script = HostAction.present w :: rest ∧ decode w = .add 1 1 ∧ s.status.aborted = false) ∧
    (∃ (s : State) (rest : List HostAction) (w : CmdWord),
      s.script = HostAction.present w :: rest ∧ decode w = .div 1 1 ∧ s.status.aborted = true) :=
  ⟨⟨⟨⟨false, 0⟩, [.present addOneOne], []⟩, [], addOneOne, rfl, by decide, rfl⟩,
    ⟨⟨⟨true, 1⟩, [.present (encode (.div 1 1)), .present addOneOne], []⟩, _, _, rfl, by decide, rfl⟩⟩

/-- `ResetOverridesEverything`, both clauses, in the aborted state and with a command presented. -/
theorem witness_reset_overrides :
    (∃ (s : State) (a : HostAction) (rest : List HostAction),
      s.script = a :: rest ∧ a.rst = true ∧ a.cmd = some addOneOne ∧ s.status = abortedBy 2) ∧
    (∃ p q : PortIn, p.rst = true ∧ q.rst = true ∧ p.cmdValid = true) :=
  ⟨⟨⟨abortedBy 2, [⟨true, some addOneOne⟩], []⟩, _, _, rfl, rfl, rfl, rfl⟩,
    ⟨⟨true, true, 3, 1, 1⟩, ⟨true, false, 0, 0, 0⟩, rfl, rfl, rfl⟩⟩

/-- `IdleStepKeepsStatus`, both clauses. -/
theorem witness_idle_step :
    (∃ (s : State) (a : HostAction) (rest : List HostAction),
      s.script = a :: rest ∧ a.rst = false ∧ a.cmd = none ∧ s.status = abortedBy 1) ∧
    (∃ s : State, s.script = [] ∧ s.status = abortedBy 1) :=
  ⟨⟨⟨abortedBy 1, [⟨false, none⟩], []⟩, _, _, rfl, rfl, rfl, rfl⟩, ⟨⟨abortedBy 1, [], []⟩, rfl, rfl⟩⟩

/-- `AbortedUnitIsStuck`: a presented command; the two steps an aborted unit has; the ports. -/
theorem witness_aborted_unit :
    (∃ (s : State) (rest : List HostAction) (w : CmdWord),
      s.status.aborted = true ∧ s.script = HostAction.present w :: rest) ∧
    (∃ s t : State, s.status.aborted = true ∧ step s = .next t ∧ t.status = s.status) ∧
    (∃ s t : State, s.status.aborted = true ∧ step s = .next t ∧ t.status ≠ s.status) ∧
    (∃ (st : Status) (p : PortIn), st.aborted = true ∧ p.rst = false ∧ p.cmdValid = true) :=
  ⟨⟨⟨abortedBy 1, [.present addOneOne], []⟩, _, _, rfl, rfl⟩,
    ⟨⟨abortedBy 1, [⟨false, none⟩], []⟩, ⟨abortedBy 1, [], []⟩, rfl, rfl, rfl⟩,
    ⟨⟨abortedBy 1, [⟨true, none⟩], []⟩, ⟨⟨false, 0⟩, [], []⟩, rfl, rfl, by decide⟩,
    ⟨abortedBy 2, ⟨false, true, 0, 1, 1⟩, rfl, rfl, rfl⟩⟩

/-- `OnlyResetLeavesTheAbortedState`, both clauses. -/
theorem witness_leaving_the_aborted_state :
    (∃ s t : State, step s = .next t ∧ s.status.aborted = true ∧ t.status.aborted = false) ∧
    (∃ s t : State, step s = .next t ∧ s.status.aborted = true ∧ t.status.aborted = true ∧ s.status.abortCode = 2) :=
  ⟨⟨⟨abortedBy 2, [⟨true, none⟩], []⟩, ⟨⟨false, 0⟩, [], []⟩, rfl, rfl, rfl⟩,
    ⟨⟨abortedBy 2, [⟨false, none⟩], []⟩, ⟨abortedBy 2, [], []⟩, rfl, rfl, rfl, rfl⟩⟩

/-- A step of a running unit that accepts `DIV 1, 1`. -/
theorem step_div : step ⟨⟨false, 0⟩, [.present (encode (.div 1 1))], []⟩ = .next ⟨abortedBy 1, [], []⟩ := by rfl

/-- A step of a running unit that accepts `ADD 1, 1`. -/
theorem step_add : step ⟨⟨false, 0⟩, [.present addOneOne], []⟩ = .next ⟨⟨false, 0⟩, [], [⟨2, false⟩]⟩ := by rfl

/-- `OnlyNamedCausesAbort`: an accepted command with a cause, and one without. -/
theorem witness_named_causes :
    (∃ (s t : State) (w : CmdWord) (rest : List HostAction) (c : AbortCause),
      step s = .next t ∧ s.status.aborted = false ∧ s.script = ⟨false, some w⟩ :: rest ∧ abortCause (decode w) = some c) ∧
    (∃ (s t : State), step s = .next t ∧ s.status.aborted = false ∧ t.status.aborted = false) :=
  ⟨⟨_, _, _, _, .unsupportedOperation, step_div, rfl, rfl, by decide⟩, ⟨_, _, step_add, rfl, rfl⟩⟩

/-- `StepFrame`: a step with a response, and one without. -/
theorem witness_step_frame :
    (∃ s t : State, step s = .next t ∧ t.responses ≠ s.responses) ∧
    (∃ s t : State, step s = .next t ∧ t.responses = s.responses) :=
  ⟨⟨_, _, step_add, by decide⟩, ⟨_, _, step_div, rfl⟩⟩

/-- `CommandFrame`, both shapes. -/
theorem witness_command_frame :
    (∃ (i : Instr) (s t : State), exec i s = .next t ∧ i.dutiful = true) ∧
    (∃ (i : Instr) (s t : State), exec i s = .next t ∧ i.dutiful = false) :=
  ⟨⟨.mul 2 3, State.reset, ⟨⟨false, 0⟩, [], [⟨6, false⟩]⟩, by rfl, rfl⟩,
    ⟨.reservedE 2 3, State.reset, ⟨abortedBy 2, [], []⟩, by rfl, rfl⟩⟩

/-- `InactiveHalfIsZero`, both classes; the addition wraps. -/
theorem witness_inactive_half :
    (∃ (i : Instr) (s t : State) (r : Response),
      exec i s = .next t ∧ t.responses = s.responses ++ [r] ∧ i.op[3] = false) ∧
    (∃ (i : Instr) (s t : State) (r : Response),
      exec i s = .next t ∧ t.responses = s.responses ++ [r] ∧ i.op[3] = true) :=
  ⟨⟨.add 0xFFFFFFFFFFFFFFFFFFFFFFFFFFFFFFFF 1, State.reset, ⟨⟨false, 0⟩, [], [⟨0, false⟩]⟩, _, by rfl, rfl, by decide⟩,
    ⟨.ge 1 1, State.reset, ⟨⟨false, 0⟩, [], [⟨0, true⟩]⟩, _, by rfl, rfl, by decide⟩⟩

/-- `RepeatedCommandRepeatsItsResponse` -/
theorem witness_repeated_command :
    ∃ (i : Instr) (s t : State), exec i s = .next t ∧ t.status.aborted = false :=
  ⟨.sub 0 1, State.reset, ⟨⟨false, 0⟩, [], [⟨0xFFFFFFFFFFFFFFFFFFFFFFFFFFFFFFFF, false⟩]⟩, by rfl, rfl⟩

/-- `StatusInvariantIsKept`, by a step into the aborted state and by one out of it. -/
theorem witness_status_invariant :
    (∃ s t : State, StatusInv s.status ∧ step s = .next t ∧ t.status.aborted = true) ∧
    (∃ s t : State, StatusInv s.status ∧ s.status.aborted = true ∧ step s = .next t ∧ t.status.aborted = false) :=
  ⟨⟨_, _, by unfold StatusInv; decide, step_div, rfl⟩,
    ⟨⟨abortedBy 2, [⟨true, none⟩], []⟩, ⟨⟨false, 0⟩, [], []⟩, by unfold StatusInv; decide, rfl, rfl, rfl⟩⟩

/-- `PastIsSeenOnlyThroughStatus`: two machines with different pasts, one step of the first. -/
theorem witness_different_pasts :
    ∃ s t s' : State, s.status = t.status ∧ s.script = t.script ∧ s.responses ≠ t.responses ∧ Reaches s 1 s' :=
  ⟨⟨⟨false, 0⟩, [.present addOneOne], []⟩, ⟨⟨false, 0⟩, [.present addOneOne], [⟨7, true⟩]⟩,
    ⟨⟨false, 0⟩, [], [⟨2, false⟩]⟩, rfl, rfl, by decide, by rfl⟩

/-- The running unit of `AddRespondsTheSum`, `SubRespondsTheDifference`, `MulRespondsTheLowProduct`,
`ComparisonsRespondTheirPredicates`, `DivAndModTakeTheUnsupportedAbort` and `ReservedOpsTakeTheIllegalAbort`. -/
theorem witness_running_unit : State.reset.status.aborted = false := rfl

/-- `SubRespondsTheDifference`, its two clauses where they meet: equal operands, and a difference of -1. -/
theorem witness_sub_clauses :
    (∃ l r : U128, r.toNat ≤ l.toNat ∧ l = r) ∧ (∃ l r : U128, l.toNat < r.toNat ∧ l.toNat + 1 = r.toNat) :=
  ⟨⟨0x80000000000000000000000000000000, 0x80000000000000000000000000000000, by decide, rfl⟩,
    ⟨0x80000000000000000000000000000000, 0x80000000000000000000000000000001, by decide, by decide⟩⟩

/-- `MultiplicationLaws`, the first shift that loses everything. -/
theorem witness_shift_of_the_full_width : ∃ k : Nat, 128 ≤ k ∧ ¬128 ≤ k - 1 := ⟨128, by decide⟩

/-- `KeptPartialProductsSuffice`: a discarded pair, the least one. -/
theorem witness_discarded_pair : ∃ p, p ∈ discardedPairs ∧ p.1.val + p.2.val = 4 := ⟨(1, 3), by decide⟩

/-- `DivAndModTakeTheUnsupportedAbort` at the ports, for both operations. -/
theorem witness_div_and_mod_at_the_ports :
    ∃ (st : Status) (p p' q : PortIn), st.aborted = false ∧ p.rst = false ∧ p'.rst = false ∧ p.cmdValid = true ∧
      p'.cmdValid = true ∧ p.cmdOp = 0x3 ∧ p'.cmdOp = 0x4 ∧ q.rst = false :=
  ⟨⟨false, 0⟩, ⟨false, true, 3, 0x64, 0⟩, ⟨false, true, 4, 1, 1⟩, ⟨false, true, 0, 1, 1⟩, by decide⟩

/-- `OrderLawsOfTheCommands`, transitivity. -/
theorem witness_transitivity :
    ∃ a b c : U128, flagOf (.lt a b) = true ∧ flagOf (.lt b c) = true :=
  ⟨0, 0x7FFFFFFFFFFFFFFFFFFFFFFFFFFFFFFF, 0x80000000000000000000000000000000, by decide⟩

/-- `MemoryImageFollowsTheHostOrder`, its last clause. -/
theorem witness_equal_images : ∃ u v : U128, memImage .little u = memImage .little v := ⟨valueA, valueA, rfl⟩

/-- `DutifulRunIsAnsweredInOrder`: one command of each kind that responds. -/
theorem witness_dutiful_run :
    ∀ i ∈ [Instr.add 1 1, .sub 1 1, .mul 1 1, .eq 1 1, .ne 1 1, .lt 1 1, .le 1 1, .gt 1 1, .ge 1 1], i.dutiful = true := by
  decide

/-- `AbortIsPrecise`: P4, and the same with a reserved `op`. -/
theorem witness_precise_abort :
    ∃ (before : List Instr) (bad bad' : Instr) (after : List Instr) (c c' : AbortCause),
      (∀ i ∈ before, i.dutiful = true) ∧ before ≠ [] ∧ abortCause bad = some c ∧ abortCause bad' = some c' ∧ after ≠ [] :=
  ⟨[.add 5 7], .div 0x64 7, .reservedF 0 0, [.add 1 1], .unsupportedOperation, .illegalOperation, by decide⟩

/-- `CycleIsTheReferenceBehaviour`: a cycle without an accepted command, one with a response, one with an abort, and the two
inputs that differ on ignored ports only. -/
theorem witness_cycle :
    (∃ (st : Status) (p : PortIn), (p.rst || !p.cmdValid || st.aborted) = true) ∧
    (∃ (st : Status) (p : PortIn) (r : Response),
      (p.rst || !p.cmdValid || st.aborted) = false ∧ contract (decode p.word) = some r) ∧
    (∃ (st : Status) (p : PortIn) (c : AbortCause),
      (p.rst || !p.cmdValid || st.aborted) = false ∧ abortCause (decode p.word) = some c) ∧
    (∃ p q : PortIn, q.rst = p.rst ∧ q.cmdValid = false ∧ p.cmdValid = false ∧ p ≠ q) :=
  ⟨⟨⟨false, 0⟩, ⟨true, true, 3, 1, 1⟩, rfl⟩,
    ⟨⟨false, 0⟩, ⟨false, true, 0, 1, 1⟩, ⟨2, false⟩, rfl, by decide⟩,
    ⟨⟨false, 0⟩, ⟨false, true, 0xE, 1, 1⟩, .illegalOperation, rfl, by decide⟩,
    ⟨⟨false, false, 0, 1, 1⟩, ⟨false, false, 5, 2, 3⟩, rfl, rfl, rfl, by decide⟩⟩

/-- `CycleCarriesOneStep`: a step that answers, and one that does not. -/
theorem witness_cycle_carries_one_step :
    (∃ (st : Status) (p : PortIn) (t : State), step ⟨st, [p.action], []⟩ = .next t) ∧
    (∃ (st : Status) (p : PortIn), ∀ t, step ⟨st, [p.action], []⟩ ≠ .next t) :=
  ⟨⟨⟨false, 0⟩, ⟨false, true, 0, 1, 1⟩, ⟨⟨false, 0⟩, [], [⟨2, false⟩]⟩, by rfl⟩,
    ⟨⟨true, 1⟩, ⟨false, true, 0, 1, 1⟩, fun t h => nomatch (show Host.Outcome.fault Fault.stuckAborted = .next t from h)⟩⟩

/-- A multiplication presented to a unit that takes two cycles for it, and two cycles in which the host waits. -/
def slowMultiply : List PortIn := [⟨false, true, 2, 6, 7⟩, ⟨false, true, 0, 1, 1⟩, ⟨false, false, 0, 0, 0⟩]

/-- `LatencyIsUnobservable`: a unit that is busy for two cycles and ignores a command meanwhile. -/
theorem witness_latency :
    (∀ p ∈ slowMultiply, p.rst = false) ∧
    (busyCycles (fun _ => 2) ⟨⟨false, 0⟩, none⟩ slowMultiply).1.inFlight = none ∧
    acceptedOf slowMultiply (busyCycles (fun _ => 2) ⟨⟨false, 0⟩, none⟩ slowMultiply).2 = [encode (.mul 6 7)] := by decide

/-- `PresentedCommandIsAnswered`: an answered command and an aborting one, each with a latency of two and of zero. -/
theorem witness_presented_command :
    (∃ (latency : OpSel → Nat) (st : Status) (p p' : PortIn) (later : List PortIn) (r : Response) (c : AbortCause),
      st.aborted = false ∧ p.rst = false ∧ p.cmdValid = true ∧ p'.rst = false ∧ p'.cmdValid = true ∧
      (∀ q ∈ later, q.rst = false) ∧ later.length = latency p.cmdOp ∧ later.length = latency p'.cmdOp ∧ later ≠ [] ∧
      contract (decode p.word) = some r ∧ abortCause (decode p'.word) = some c) ∧
    (∃ (latency : OpSel → Nat) (st : Status) (p p' : PortIn) (r : Response) (c : AbortCause),
      st.aborted = false ∧ p.rst = false ∧ p.cmdValid = true ∧ p'.rst = false ∧ p'.cmdValid = true ∧
      latency p.cmdOp = 0 ∧ latency p'.cmdOp = 0 ∧
      contract (decode p.word) = some r ∧ abortCause (decode p'.word) = some c) :=
  ⟨⟨fun _ => 2, ⟨false, 0⟩, ⟨false, true, 2, 6, 7⟩, ⟨false, true, 3, 6, 7⟩,
      [⟨false, true, 0, 1, 1⟩, ⟨false, false, 0, 0, 0⟩], ⟨42, false⟩, .unsupportedOperation, by decide⟩,
    ⟨fun _ => 0, ⟨false, 0⟩, ⟨false, true, 0xD, 7, 7⟩, ⟨false, true, 0xF, 7, 7⟩, ⟨0, true⟩, .illegalOperation, by decide⟩⟩

/-- `BusyUnitBecomesReady`: the least wait and a longer one, after a command that responds and after one that aborts, with
`DIV` held on the ports. -/
theorem witness_busy_unit :
    ∃ (st : Status) (n n' : Nat) (w w' : CmdWord) (later later' : List PortIn) (p : PortIn) (c : AbortCause),
      st.aborted = false ∧ n = 0 ∧ n' = 1 ∧ (∀ q ∈ later, q.rst = false) ∧ later.length = n + 1 ∧
      (∀ q ∈ later', q.rst = false) ∧ later'.length = n' + 1 ∧ abortCause (decode w) = none ∧
      abortCause (decode w') = some c ∧ p.rst = false ∧ p.cmdValid = true ∧ p.cmdOp = 3 :=
  ⟨⟨false, 0⟩, 0, 1, encode (.mul 6 7), encode (.mod 6 7), [⟨false, true, 3, 1, 1⟩],
    [⟨false, true, 3, 1, 1⟩, ⟨false, false, 0, 0, 0⟩], ⟨false, true, 3, 1, 1⟩, .unsupportedOperation, by decide⟩

/-- `WellFormedScriptFinishes`: the first two lines of P1. -/
theorem witness_script :
    ∃ (lines : List ScriptLine) (st : Status), Script.wellFormed [] lines = true ∧ (∀ l ∈ lines, l.dutiful = true) ∧
      st.aborted = false ∧ lines ≠ [] :=
  ⟨[⟨some "n1", .ADD, .u64be 0 0xFFFFFFFFFFFFFFFF, .hex128 1⟩, ⟨some "w1", .LT, .ref "n1", .u64be 0 0xFFFFFFFFFFFFFFFF⟩],
    ⟨false, 0⟩, by decide⟩

/-- `WrittenCommandsReadBack`: the least and the greatest count of digits, each with its greatest number. -/
theorem witness_digit_counts :
    (∃ most n v : Nat, 1 ≤ n ∧ n ≤ most ∧ v < 16 ^ n ∧ n = 1 ∧ v = 15) ∧
    (∃ most n v : Nat, 1 ≤ n ∧ n ≤ most ∧ v < 16 ^ n ∧ n = 32 ∧ v + 1 = 16 ^ 32) :=
  ⟨⟨32, 1, 15, by decide⟩, ⟨32, 32, 0xFFFFFFFFFFFFFFFFFFFFFFFFFFFFFFFF, by decide⟩⟩

/-- `UnitsShareNothing`: the second of two units moves. -/
theorem witness_units :
    ∃ (units : List State) (k j : Nat) (s t : State), j ≠ k ∧ units[k]? = some s ∧ step s = .next t ∧ units.length = 2 :=
  ⟨[State.reset, ⟨⟨false, 0⟩, [.present (encode (.div 1 1))], []⟩], 1, 0, _, _, by decide, rfl, step_div, rfl⟩

end Sys2Proof.Tests
end

section
/-! Facts about the step, the ports and the meanings that the proofs below cite: what a host action does, what a cycle does,
and what `exec` answers, each case once. -/

namespace Sys2Proof.Machine

/-- A step takes the first action of the script, at the state whose script has lost it. -/
theorem step_cons {s : State} {a : HostAction} {rest : List HostAction} (h : s.script = a :: rest) :
    step s = takeAction a { s with script := rest } := by simp [step, h]

theorem takeAction_reset {a : HostAction} (s : State) (hr : a.rst = true) : takeAction a s = .next s.applyReset := by
  simp [takeAction, hr]

theorem takeAction_idle {a : HostAction} (s : State) (hr : a.rst = false) (hc : a.cmd = none) :
    takeAction a s = .next s := by simp [takeAction, hr, hc]

theorem takeAction_command {a : HostAction} {w : CmdWord} (s : State) (hr : a.rst = false) (hc : a.cmd = some w) :
    takeAction a s = exec (decode w) s := by simp [takeAction, hr, hc]

/-- No command has a step on an aborted unit (R94; log entry 4). -/
theorem exec_of_aborted (i : Instr) {s : State} (h : s.status.aborted = true) : exec i s = .fault .stuckAborted := by
  obtain ⟨v, f, hi⟩ | ⟨c, hi⟩ := exec_shape i
  · exact (hi s).trans (accept_of_aborted _ h)
  · exact (hi s).trans (accept_of_aborted _ h)

/-- On a running unit `exec` answers what `perform` shows at the ports, and neither reads nor changes the host's lists but to
put the response at the end. -/
theorem exec_of_running (w : CmdWord) {s : State} (h : s.status.aborted = false) :
    exec (decode w) s = .next { status := (perform s.status w).1, script := s.script,
                                responses := s.responses ++ (perform s.status w).2.toList } := by
  obtain ⟨v, f, hi⟩ | ⟨c, hi⟩ := exec_shape (decode w)
  · simp [perform, hi, respond_of_running, h, State.capture]
  · simp [perform, hi, raiseAbort_of_running, h]

@[simp] theorem PortIn.action_rst (p : PortIn) : p.action.rst = p.rst := rfl

theorem PortIn.action_cmd_of_valid {p : PortIn} (h : p.cmdValid = true) : p.action.cmd = some p.word := by
  simp [PortIn.action, h]

theorem PortIn.action_cmd_of_invalid {p : PortIn} (h : p.cmdValid = false) : p.action.cmd = none := by
  simp [PortIn.action, h]

theorem cycle_reset (st : Status) {p : PortIn} (hr : p.rst = true) :
    cycle st p = (Status.reset, portsOut st false none) := by simp [cycle, hr]

theorem cycle_idle (st : Status) {p : PortIn} (hr : p.rst = false) (hv : p.cmdValid = false) :
    cycle st p = (st, portsOut st (cmdReady st false) none) := by simp [cycle, hr, hv]

theorem cycle_accepted {st : Status} {p : PortIn} (hr : p.rst = false) (hv : p.cmdValid = true) (ha : st.aborted = false) :
    cycle st p = ((perform st p.word).1, portsOut st true (perform st p.word).2) := by simp [cycle, cmdReady, hr, hv, ha]

theorem cycle_of_aborted {st : Status} {p : PortIn} (hr : p.rst = false) (ha : st.aborted = true) :
    cycle st p = (st, portsOut st false none) := by simp [cycle, cmdReady, hr, ha]

end Sys2Proof.Machine
end

section
/-! Obligations O6 and O44: the step and the cycle run the same command (`00_scope.md` R9). -/

namespace Sys2Proof.Machine

/-- A command that waits on an aborted unit has no step. -/
theorem step_of_waiting {st : Status} {p : PortIn} (ha : st.aborted = true) (hv : p.cmdValid = true) (hr : p.rst = false)
    (rest : List HostAction) (rs : List Response) :
    step { status := st, script := p.action :: rest, responses := rs } = .fault .stuckAborted := by
  rw [step_cons rfl, takeAction_command _ hr (PortIn.action_cmd_of_valid hv), exec_of_aborted _ ha]

/-- Any other cycle is one step: `STATUS` becomes the cycle's and the host captures what is on the ports. The cases are those
of the order inside a step (R97): reset, no command, an accepted command. -/
theorem step_of_not_waiting {st : Status} {p : PortIn} (h : ¬(st.aborted = true ∧ p.cmdValid = true ∧ p.rst = false))
    (rest : List HostAction) (rs : List Response) :
    step { status := st, script := p.action :: rest, responses := rs } =
      .next { status := (cycle st p).1, script := rest, responses := rs ++ responsesOf [(cycle st p).2] } := by
  rw [step_cons rfl]
  cases hr : p.rst with
  | true => simp [takeAction_reset, cycle_reset, hr, State.applyReset, responsesOf_portsOut]
  | false =>
    cases hv : p.cmdValid with
    | false =>
      rw [takeAction_idle _ hr (PortIn.action_cmd_of_invalid hv), cycle_idle st hr hv]
      simp [responsesOf_portsOut]
    | true =>
      have ha : st.aborted = false := by simpa [hr, hv] using h
      rw [takeAction_command _ hr (PortIn.action_cmd_of_valid hv), exec_of_running _ ha, cycle_accepted hr hv ha,
        responsesOf_portsOut]

/-- Settles O6: the presented action has no reset and carries `w`, so taking it is `exec` of the decoded word. -/
theorem stepRunsTheDecodedCommand : Obligations.StepRunsTheDecodedCommand := by
  intro s rest w i hs hw
  rw [step_cons hs, takeAction_command _ (HostAction.present_rst w) (HostAction.present_cmd w), hw]

/-- Settles O44: either a command waits on an aborted unit, and there is no step and the cycle changes nothing, or the step
answers the cycle's `STATUS` and response. -/
theorem cycleCarriesOneStep : Obligations.CycleCarriesOneStep := by
  intro st p rest rs
  by_cases h : st.aborted = true ∧ p.cmdValid = true ∧ p.rst = false
  · obtain ⟨ha, hv, hr⟩ := h
    refine ⟨fun t ht => ?_, fun _ => ⟨ha, hv, hr, ?_⟩⟩
    · rw [step_of_waiting ha hv hr] at ht; cases ht
    · rw [cycle_of_aborted hr ha]; exact ⟨rfl, responsesOf_portsOut st false none⟩
  · have hstep := step_of_not_waiting h rest rs
    refine ⟨fun t ht => ?_, fun hno => absurd hstep (hno _)⟩
    rw [hstep] at ht; cases ht; exact ⟨rfl, rfl⟩

end Sys2Proof.Machine
end

section
/-! Obligations O14, O17, O18 and O19: `STATUS` is the unit's whole state (`10_state.md` R10, R14, R18, R25). What the host has
captured is named `past` where it is exchanged for another list. -/

namespace Sys2Proof.Machine

open Sys2Proof.Safety

/-! ### The two shapes of a command (`30_encoding.md` R34) -/

/-- A dutiful command is one `respond` and an undutiful one is one `raiseAbort`, with arguments that do not read the state. -/
theorem exec_shape_by_duty (i : Instr) :
    (i.dutiful = true ∧ ∃ value flag, ∀ s, exec i s = respond value flag s) ∨
    (i.dutiful = false ∧ ∃ cause, ∀ s, exec i s = raiseAbort cause s) := by
  cases i
  case add | sub | mul | eq | ne | lt | le | gt | ge => exact .inl ⟨rfl, _, _, fun _ => rfl⟩
  case div | mod => exact .inr ⟨rfl, .unsupportedOperation, fun _ => rfl⟩
  case reserved5 | reserved6 | reserved7 | reservedE | reservedF => exact .inr ⟨rfl, .illegalOperation, fun _ => rfl⟩

/-- Settles O14: the frame of `respond` for a dutiful command, that of `raiseAbort` for the others. -/
theorem commandFrame : Obligations.CommandFrame := by
  intro i s t h
  obtain ⟨hd, v, f, hi⟩ | ⟨hd, c, hi⟩ := exec_shape_by_duty i
  · obtain ⟨-, rfl⟩ := respond_next (hi s ▸ h)
    simp [hd]
  · obtain ⟨-, rfl⟩ := raiseAbort_next (hi s ▸ h)
    simp [hd]

/-! ### The layout of `STATUS` and its invariant (`10_state.md` R14, R19) -/

theorem Status.word_toNat (st : Status) : st.word.toNat = st.abortCode.toNat * 2 + st.aborted.toNat := by
  rw [Status.word, append_toNat, BitVec.toNat_ofBool, Nat.pow_one]

theorem statusInv_reset : StatusInv Status.reset := by simp [StatusInv]

/-- The abort entry sets both fields together, and the code of a cause is neither 0 nor 3 (R90). -/
theorem statusInv_abort (c : AbortCause) : StatusInv { aborted := true, abortCode := c.code } := by
  obtain ⟨hzero, hthree⟩ := c.code_legal
  simp [StatusInv, hzero, hthree]

/-- Settles O17. -/
theorem resetStateIsClearAndLegal : Obligations.ResetStateIsClearAndLegal :=
  ⟨Status.word_toNat, rfl, rfl, statusInv_reset⟩

theorem exec_keeps_statusInv {i : Instr} {s t : State} (hs : StatusInv s.status) (h : exec i s = .next t) :
    StatusInv t.status := by
  obtain ⟨-, ⟨r, rfl⟩ | ⟨c, rfl⟩⟩ := exec_next h
  · exact hs
  · exact statusInv_abort c

/-- Settles O18: a step leaves `STATUS`, clears it, or runs a command. -/
theorem statusInvariantIsKept : Obligations.StatusInvariantIsKept := by
  intro s t hs h
  obtain ⟨-, rfl⟩ | ⟨a, rest, -, ⟨-, rfl⟩ | ⟨-, -, rfl⟩ | ⟨w, -, -, hexec⟩⟩ := step_next h
  · exact hs
  · exact statusInv_reset
  · exact hs
  · exact exec_keeps_statusInv (s := { s with script := rest }) hs hexec

/-! ### Machines with different pasts (`10_state.md` R18; `20_memory.md` R25) -/

/-- A host with no further action leaves the machine as it is (`70_reset_and_hazards.md` R113; log entry 3). -/
theorem step_nil {s : State} (h : s.script = []) : step s = .next s := by simp [step, h, idleForEver]

/-- A command puts the same responses at the end of any past, and does the same to the rest. -/
theorem exec_with_past {w : CmdWord} {s u : State} (h : exec (decode w) s = .next u) (past : List Response) :
    ∃ rs, u.responses = s.responses ++ rs ∧
      exec (decode w) { s with responses := past } = .next { u with responses := past ++ rs } := by
  obtain ⟨hrunning, -⟩ := exec_next h
  rw [exec_of_running w hrunning] at h
  cases h
  exact ⟨_, rfl, exec_of_running w hrunning⟩

/-- So does a step. A step that runs no command adds no response. -/
theorem step_with_past {s u : State} (h : step s = .next u) (past : List Response) :
    ∃ rs, u.responses = s.responses ++ rs ∧
      step { s with responses := past } = .next { u with responses := past ++ rs } := by
  obtain ⟨hs, rfl⟩ | ⟨a, rest, hs, hcase⟩ := step_next h
  · exact ⟨[], by simp, by rw [List.append_nil]; exact step_nil hs⟩
  · rw [step_cons (s := { s with responses := past }) hs]
    obtain ⟨hr, rfl⟩ | ⟨hr, hc, rfl⟩ | ⟨w, hr, hc, hexec⟩ := hcase
    · exact ⟨[], by simp, by simp [takeAction_reset _ hr, State.applyReset]⟩
    · exact ⟨[], by simp, by simp [takeAction_idle _ hr hc]⟩
    · rw [takeAction_command _ hr hc]
      exact exec_with_past hexec past

/-- And so does a run, by induction on its steps: each step's responses stand before those of the steps after it. -/
theorem reaches_with_past {k : Nat} {s u : State} (h : Reaches s k u) (past : List Response) :
    ∃ rs, u.responses = s.responses ++ rs ∧
      Reaches { s with responses := past } k { u with responses := past ++ rs } := by
  induction k generalizing s past with
  | zero =>
    obtain rfl := reaches_zero.1 h
    exact ⟨[], by simp, reaches_zero.2 (by simp)⟩
  | succ k ih =>
    obtain ⟨v, hstep, hrun⟩ := reaches_succ.1 h
    obtain ⟨first, hv, hstep'⟩ := step_with_past hstep past
    obtain ⟨later, hu, hrun'⟩ := ih hrun (past ++ first)
    refine ⟨first ++ later, by rw [hu, hv, List.append_assoc], reaches_succ.2 ⟨_, hstep', ?_⟩⟩
    rwa [List.append_assoc] at hrun'

/-- A machine with the `STATUS` and the script of another follows its run, with the same responses after its own past. -/
theorem reaches_of_same_status {k : Nat} {s t s' : State} (hst : s.status = t.status) (hsc : s.script = t.script)
    (h : Reaches s k s') :
    ∃ t' rs, Reaches t k t' ∧ t'.status = s'.status ∧ t'.script = s'.script ∧
      s'.responses = s.responses ++ rs ∧ t'.responses = t.responses ++ rs := by
  obtain ⟨rs, hs', ht'⟩ := reaches_with_past h t.responses
  rw [hst, hsc] at ht'
  exact ⟨_, rs, ht', rfl, rfl, hs', rfl⟩

/-- Settles O19: each machine follows the run of the other. -/
theorem pastIsSeenOnlyThroughStatus : Obligations.PastIsSeenOnlyThroughStatus := by
  intro k s t hst hsc
  refine ⟨fun s' h => reaches_of_same_status hst hsc h, ?_, ?_⟩
  · rintro ⟨s', h⟩
    obtain ⟨t', -, ht', -⟩ := reaches_of_same_status hst hsc h
    exact ⟨t', ht'⟩
  · rintro ⟨t', h⟩
    obtain ⟨s', -, hs', -⟩ := reaches_of_same_status hst.symm hsc.symm h
    exact ⟨s', hs'⟩

end Sys2Proof.Machine
end

section
/-! The memory image in the host's memory (`20_memory.md` R21): where each unit of an array stands, and of which bytes a wider
view is made. A byte is named by its big-endian index, so the facts about views do not speak of the host order. -/

namespace Sys2Proof.Machine

/-! ### Arrays of units -/

@[simp] theorem physicalIndex_big {n : Nat} (i : Fin n) : physicalIndex .big i = i := rfl

theorem physicalIndex_little {n : Nat} (i : Fin (n + 1)) : physicalIndex .little i = ⟨n - i.val, by omega⟩ :=
  Fin.ext (by simp [physicalIndex])

@[simp] theorem physicalIndex_physicalIndex {n : Nat} (e : HostEndian) (i : Fin n) :
    physicalIndex e (physicalIndex e i) = i := by
  cases e
  · rfl
  · exact i.rev_rev

@[simp] theorem memImage_getElem (e : HostEndian) (v : U128) (k : Nat) (hk : k < 16) :
    (memImage e v)[k] = be8 v (physicalIndex e ⟨k, hk⟩) := by simp [memImage]

@[simp] theorem physical16_getElem (e : HostEndian) (v : U128) (k : Nat) (hk : k < 8) :
    (physical16 e v)[k] = be16 v (physicalIndex e ⟨k, hk⟩) := by simp [physical16]

@[simp] theorem physical32_getElem (e : HostEndian) (v : U128) (k : Nat) (hk : k < 4) :
    (physical32 e v)[k] = be32 v (physicalIndex e ⟨k, hk⟩) := by simp [physical32]

@[simp] theorem physical64_getElem (e : HostEndian) (v : U128) (k : Nat) (hk : k < 2) :
    (physical64 e v)[k] = be64 v (physicalIndex e ⟨k, hk⟩) := by simp [physical64]

/-! ### Views as bytes -/

/-- A slice that ends just above byte `i` takes in that byte. -/
theorem slice_append_be8 (v : U128) {start len : Nat} {i : Fin 16} (h : start = 120 - 8 * i.val + 8) :
    v.extractLsb' start len ++ be8 v i = v.extractLsb' (120 - 8 * i.val) (len + 8) :=
  BitVec.extractLsb'_append_extractLsb'_eq_extractLsb' h

/-- `b` names the bytes of the unit, most significant first; so in the two lemmas after this one. -/
theorem be16_eq_bytes (v : U128) (i : Fin 8) (b : Fin 2 → Fin 16) (hb : ∀ j, (b j).val = 2 * i.val + j.val) :
    be16 v i = be8 v (b 0) ++ be8 v (b 1) := by
  rw [be8, slice_append_be8, be16]
  · congr 1; simp [hb]; omega
  all_goals simp [hb]; omega

theorem be32_eq_bytes (v : U128) (i : Fin 4) (b : Fin 4 → Fin 16) (hb : ∀ j, (b j).val = 4 * i.val + j.val) :
    be32 v i = ((be8 v (b 0) ++ be8 v (b 1)) ++ be8 v (b 2)) ++ be8 v (b 3) := by
  rw [be8, slice_append_be8, slice_append_be8, slice_append_be8, be32]
  · congr 1; simp [hb]; omega
  all_goals simp [hb]; omega

theorem be64_eq_bytes (v : U128) (i : Fin 2) (b : Fin 8 → Fin 16) (hb : ∀ j, (b j).val = 8 * i.val + j.val) :
    be64 v i = ((((((be8 v (b 0) ++ be8 v (b 1)) ++ be8 v (b 2)) ++ be8 v (b 3)) ++ be8 v (b 4)) ++ be8 v (b 5)) ++
      be8 v (b 6)) ++ be8 v (b 7) := by
  rw [be8, slice_append_be8, slice_append_be8, slice_append_be8, slice_append_be8,
    slice_append_be8, slice_append_be8, slice_append_be8, be64]
  · congr 1; simp [hb]; omega
  all_goals simp [hb]; omega

/-- A value is made of its two halves (`40_representation.md` R44). -/
theorem fromU64Be_be64 (v : U128) : fromU64Be (be64 v 0) (be64 v 1) = v :=
  BitVec.extractLsb'_append_extractLsb' (w := 64) (len := 64) (x := v)

/-! ### What the host reads from the image -/

/-- On a little-endian host the bytes of an element stand in the opposite order, and so do the elements in the array: the two
reversals together name the bytes of the unit in big-endian order. -/
theorem readElement16_memImage (e : HostEndian) (v : U128) (k : Fin 8) :
    readElement16 e (memImage e v) k = be16 v (physicalIndex e k) := by
  cases e
  case big =>
    rw [physicalIndex_big, be16_eq_bytes v _ (fun j => ⟨2 * k.val + j.val, by omega⟩) (fun j => rfl)]
    simp [readElement16]
  case little =>
    rw [be16_eq_bytes v _ (fun j => Fin.rev ⟨2 * k.val + j.rev.val, by omega⟩)
      (fun j => by simp [physicalIndex]; omega)]
    simp [readElement16, physicalIndex]

theorem readElement32_memImage (e : HostEndian) (v : U128) (k : Fin 4) :
    readElement32 e (memImage e v) k = be32 v (physicalIndex e k) := by
  cases e
  case big =>
    rw [physicalIndex_big, be32_eq_bytes v _ (fun j => ⟨4 * k.val + j.val, by omega⟩) (fun j => rfl)]
    simp [readElement32]
  case little =>
    rw [be32_eq_bytes v _ (fun j => Fin.rev ⟨4 * k.val + j.rev.val, by omega⟩)
      (fun j => by simp [physicalIndex]; omega)]
    simp [readElement32, physicalIndex]

theorem readElement64_memImage (e : HostEndian) (v : U128) (k : Fin 2) :
    readElement64 e (memImage e v) k = be64 v (physicalIndex e k) := by
  cases e
  case big =>
    rw [physicalIndex_big, be64_eq_bytes v _ (fun j => ⟨8 * k.val + j.val, by omega⟩) (fun j => rfl)]
    simp [readElement64]
  case little =>
    rw [be64_eq_bytes v _ (fun j => Fin.rev ⟨8 * k.val + j.rev.val, by omega⟩)
      (fun j => by simp [physicalIndex]; omega)]
    simp [readElement64, physicalIndex]

/-- The host reads both halves of a value from its image. -/
theorem be64_eq_readElement64 (e : HostEndian) (v : U128) (i : Fin 2) :
    be64 v i = readElement64 e (memImage e v) (physicalIndex e i) := by
  rw [readElement64_memImage, physicalIndex_physicalIndex]

theorem memImage_injective (e : HostEndian) {u v : U128} (h : memImage e u = memImage e v) : u = v := by
  rw [← fromU64Be_be64 u, ← fromU64Be_be64 v]
  simp only [be64_eq_readElement64 e, h]

end Sys2Proof.Machine
end

section
/-! Obligations O16 and O40 (`20_memory.md` R21, R23). -/

namespace Sys2Proof.Machine

/-- Settles O16: a command that leaves the unit running is a `respond` whose arguments do not read the state. -/
theorem repeatedCommandRepeatsItsResponse : Obligations.RepeatedCommandRepeatsItsResponse := by
  intro i s t h ht
  obtain ⟨v, f, hi⟩ | ⟨c, hi⟩ := exec_shape i
  · obtain ⟨-, rfl⟩ := respond_next (hi s ▸ h)
    exact ⟨_, rfl, (hi _).trans (respond_of_running v f ht)⟩
  · obtain ⟨-, rfl⟩ := raiseAbort_next (hi s ▸ h)
    cases ht

/-- Settles O40: the arrays by their elements, the rest by what the host reads from the image. -/
theorem memoryImageFollowsTheHostOrder : Obligations.MemoryImageFollowsTheHostOrder := by
  intro v
  refine ⟨fun k => ⟨?_, ?_⟩, fun k => ⟨?_, ?_⟩, fun k => ⟨?_, ?_⟩, fun k => ⟨?_, ?_⟩, fun e k => ?read16, fun e k => ?read32,
    fun e k => ?read64, fun e u h => memImage_injective e h, fun i => ?bytes⟩
  case read16 => rw [readElement16_memImage, Fin.getElem_fin, physical16_getElem]
  case read32 => rw [readElement32_memImage, Fin.getElem_fin, physical32_getElem]
  case read64 => rw [readElement64_memImage, Fin.getElem_fin, physical64_getElem]
  case bytes => exact be32_eq_bytes v i (fun j => ⟨4 * i.val + j.val, by omega⟩) (fun j => rfl)
  all_goals simp [physicalIndex_little]

end Sys2Proof.Machine
end

section
/-! Obligations O1 to O5: encoding and decoding (`30_encoding.md` R31, R32, R33, R39). -/

namespace Sys2Proof

@[simp] theorem opField_encode (i : Instr) : opField (encode i) = i.op := opField_commandWord _ _ _
@[simp] theorem lhsField_encode (i : Instr) : lhsField (encode i) = i.lhs := lhsField_commandWord _ _ _
@[simp] theorem rhsField_encode (i : Instr) : rhsField (encode i) = i.rhs := rhsField_commandWord _ _ _

/-- The operation map undoes the taking of a command's fields, row by row. -/
theorem selectOp_fields (i : Instr) : selectOp i.op i.lhs i.rhs = i := by
  cases i <;> simp [selectOp, Instr.op, Instr.lhs, Instr.rhs]

/-- The three fields of a word lie side by side and make it up. -/
theorem commandWord_fields (w : CmdWord) : commandWord (opField w) (lhsField w) (rhsField w) = w := by
  have high : opField w ++ lhsField w = w.extractLsb' 128 132 := BitVec.extractLsb'_append_extractLsb'_eq_extractLsb' rfl
  have whole : w.extractLsb' 128 132 ++ rhsField w = w.extractLsb' 0 260 :=
    BitVec.extractLsb'_append_extractLsb'_eq_extractLsb' rfl
  rw [commandWord, high, whole, BitVec.extractLsb'_eq_self]

@[simp] theorem decode_encode (i : Instr) : decode (encode i) = i := by
  rw [encode, decode_commandWord, selectOp_fields]

@[simp] theorem encode_decode (w : CmdWord) : encode (decode w) = w := by
  rw [encode, decode, selectOp_op, selectOp_lhs, selectOp_rhs, commandWord_fields]

end Sys2Proof

namespace Sys2Proof.Machine

theorem Response.word_toNat (r : Response) : r.word.toNat = r.flag.toNat * 2 ^ 128 + r.value.toNat := by
  rw [Response.word, append_toNat, BitVec.toNat_ofBool]

/-- Settles O1. -/
theorem decodeOfEncodeIsTheCommand : Obligations.DecodeOfEncodeIsTheCommand := decode_encode

/-- Settles O2. -/
theorem encodeOfDecodeIsTheWord : Obligations.EncodeOfDecodeIsTheWord := encode_decode

/-- Settles O3. -/
theorem formatsPlaceTheirFields : Obligations.FormatsPlaceTheirFields :=
  ⟨fun op l r => ⟨commandWord_toNat op l r, opField_commandWord op l r, lhsField_commandWord op l r,
    rhsField_commandWord op l r⟩, fun _ => rfl, Response.word_toNat⟩

/-- Settles O4: each word of the map is the encoding of its row's command. -/
theorem operationMapReadsOpAlone : Obligations.OperationMapReadsOpAlone := fun l r =>
  ⟨decode_encode (.add l r), decode_encode (.sub l r), decode_encode (.mul l r), decode_encode (.div l r),
    decode_encode (.mod l r), decode_encode (.reserved5 l r), decode_encode (.reserved6 l r), decode_encode (.reserved7 l r),
    decode_encode (.eq l r), decode_encode (.ne l r), decode_encode (.lt l r), decode_encode (.le l r),
    decode_encode (.gt l r), decode_encode (.ge l r), decode_encode (.reservedE l r), decode_encode (.reservedF l r)⟩

/-- Settles O5: each word is evaluated. -/
theorem wordsOfTheSpecDecode : Obligations.WordsOfTheSpecDecode := by
  refine ⟨?a7, ?s7, ?m11, ?x1, ?x2, ?x7, ?q8⟩ <;> decide

end Sys2Proof.Machine
end

section
/-! The comparators as numbers (`44_compare.md` R75 to R78), and the tables of `30_encoding.md` R34 against the meanings:
what `exec` and `perform` do to a command with a response in the tables, and to one with a cause. -/

namespace Sys2Proof.Machine

open Sys2Proof.Safety

/-! ### The comparators -/

theorem high32_toNat (x : W64) : (high32 x).toNat = x.toNat / 2 ^ 32 := by
  rw [high32, BitVec.extractLsb'_toNat, Nat.shiftRight_eq_div_pow]
  have := x.isLt
  omega

theorem low32_toNat (x : W64) : (low32 x).toNat = x.toNat % 2 ^ 32 := by simp [low32, BitVec.extractLsb'_toNat]

theorem cmp32Eq_eq_decide (x y : W32) : cmp32Eq x y = decide (x.toNat = y.toNat) := by
  simp only [cmp32Eq, BitVec.toNat_eq]

/-- The two halves of a value agree exactly when the values do. -/
theorem cmp64Eq_eq_decide (x y : W64) : cmp64Eq x y = decide (x.toNat = y.toNat) := by
  rw [cmp64Eq, cmp32Eq_eq_decide, cmp32Eq_eq_decide, high32_toNat, high32_toNat, low32_toNat, low32_toNat,
    ← Bool.decide_and, decide_eq_decide]
  omega

/-- The high halves decide unless they are equal, and then the low halves do. -/
theorem cmp64Lt_eq_decide (x y : W64) : cmp64Lt x y = decide (x.toNat < y.toNat) := by
  rw [cmp64Lt, cmp32Eq_eq_decide, cmp32Lt, cmp32Lt, high32_toNat, high32_toNat, low32_toNat, low32_toNat,
    ← Bool.decide_and, ← Bool.decide_or, decide_eq_decide]
  omega

theorem u128Eq_eq_decide (x y : U128) : u128Eq x y = decide (x.toNat = y.toNat) := by
  have hx := x.isLt
  have hy := y.isLt
  rw [u128Eq, cmp64Eq_eq_decide, cmp64Eq_eq_decide, hi_toNat, hi_toNat, lo_toNat, lo_toNat, ← Bool.decide_and,
    decide_eq_decide]
  omega

theorem u128Lt_eq_decide (x y : U128) : u128Lt x y = decide (x.toNat < y.toNat) := by
  have hx := x.isLt
  have hy := y.isLt
  rw [u128Lt, cmp64Eq_eq_decide, cmp64Lt_eq_decide, cmp64Lt_eq_decide, hi_toNat, hi_toNat, lo_toNat, lo_toNat,
    ← Bool.decide_and, ← Bool.decide_or, decide_eq_decide]
  omega

theorem u128Ne_eq_decide (x y : U128) : (!u128Eq x y) = decide (x.toNat ≠ y.toNat) := by
  rw [u128Eq_eq_decide, decide_not]

theorem u128Le_eq_decide (x y : U128) : (u128Lt x y || u128Eq x y) = decide (x.toNat ≤ y.toNat) := by
  rw [u128Lt_eq_decide, u128Eq_eq_decide, ← Bool.decide_or, decide_eq_decide, Nat.le_iff_lt_or_eq]

theorem u128Ge_eq_decide (x y : U128) : (!u128Lt x y) = decide (y.toNat ≤ x.toNat) := by
  rw [u128Lt_eq_decide, ← decide_not, decide_eq_decide, Nat.not_lt]

/-! ### The arithmetic values -/

theorem u128Add_eq_ofNat_mod (l r : U128) : u128Add l r = BitVec.ofNat 128 ((l.toNat + r.toNat) % 2 ^ 128) :=
  BitVec.eq_of_toNat_eq (by simp [u128Add])

theorem u128Mul_eq_ofNat_mod (l r : U128) : u128Mul l r = BitVec.ofNat 128 ((l.toNat * r.toNat) % 2 ^ 128) :=
  BitVec.eq_of_toNat_eq (by simp [u128Mul])

theorem u128Sub_eq_ofNat_mod (l r : U128) :
    u128Sub l r = BitVec.ofNat 128 ((2 ^ 128 + l.toNat - r.toNat) % 2 ^ 128) :=
  BitVec.eq_of_toNat_eq (by rw [u128Sub_toNat, BitVec.toNat_ofNat, Nat.mod_mod])

/-! ### The tables -/

theorem contract_of_responds {i : Instr} {r : Response} (h : outcomeOf i.op i.lhs i.rhs = .responds r) :
    contract i = some r ∧ abortCause i = none := by simp [contract, abortCause, h]

theorem abortCause_of_aborts {i : Instr} {c : AbortCause} (h : outcomeOf i.op i.lhs i.rhs = .aborts c) :
    contract i = none ∧ abortCause i = some c := by simp [contract, abortCause, h]

/-- Each of the sixteen commands does what its row of the tables says: it is the `respond` of its response or the
`raiseAbort` of its cause. -/
theorem exec_eq_table (i : Instr) :
    (∃ r, outcomeOf i.op i.lhs i.rhs = .responds r ∧ ∀ s, exec i s = respond r.value r.flag s) ∨
    (∃ c, outcomeOf i.op i.lhs i.rhs = .aborts c ∧ ∀ s, exec i s = raiseAbort c s) := by
  cases i
  case div | mod => exact .inr ⟨.unsupportedOperation, rfl, fun _ => rfl⟩
  case reserved5 | reserved6 | reserved7 | reservedE | reservedF => exact .inr ⟨.illegalOperation, rfl, fun _ => rfl⟩
  case add l r => exact .inl ⟨_, rfl, fun _ => u128Add_eq_ofNat_mod l r ▸ rfl⟩
  case sub l r => exact .inl ⟨_, rfl, fun _ => u128Sub_eq_ofNat_mod l r ▸ rfl⟩
  case mul l r => exact .inl ⟨_, rfl, fun _ => u128Mul_eq_ofNat_mod l r ▸ rfl⟩
  case eq l r => exact .inl ⟨_, rfl, fun s => congrArg (respond 0 · s) (u128Eq_eq_decide l r)⟩
  case ne l r => exact .inl ⟨_, rfl, fun s => congrArg (respond 0 · s) (u128Ne_eq_decide l r)⟩
  case lt l r => exact .inl ⟨_, rfl, fun s => congrArg (respond 0 · s) (u128Lt_eq_decide l r)⟩
  case le l r => exact .inl ⟨_, rfl, fun s => congrArg (respond 0 · s) (u128Le_eq_decide l r)⟩
  case gt l r => exact .inl ⟨_, rfl, fun s => congrArg (respond 0 · s) (u128Lt_eq_decide r l)⟩
  case ge l r => exact .inl ⟨_, rfl, fun s => congrArg (respond 0 · s) (u128Ge_eq_decide l r)⟩

theorem exec_of_contract {i : Instr} {r : Response} {s : State} (h : contract i = some r) (hs : s.status.aborted = false) :
    exec i s = .next (s.capture r) := by
  obtain ⟨r', hout, hi⟩ | ⟨c, hout, -⟩ := exec_eq_table i
  · obtain rfl : r' = r := Option.some.inj ((contract_of_responds hout).1.symm.trans h)
    exact (hi s).trans (respond_of_running _ _ hs)
  · rw [(abortCause_of_aborts hout).1] at h; cases h

theorem exec_of_abortCause {i : Instr} {c : AbortCause} {s : State} (h : abortCause i = some c)
    (hs : s.status.aborted = false) : exec i s = .next { s with status := { aborted := true, abortCode := c.code } } := by
  obtain ⟨r, hout, -⟩ | ⟨c', hout, hi⟩ := exec_eq_table i
  · rw [(contract_of_responds hout).2] at h; cases h
  · obtain rfl : c' = c := Option.some.inj ((abortCause_of_aborts hout).2.symm.trans h)
    exact (hi s).trans (raiseAbort_of_running _ hs)

/-- All that a command can do when it answers a next state, by the tables. -/
theorem exec_next_by_table {i : Instr} {s t : State} (h : exec i s = .next t) :
    s.status.aborted = false ∧ ((∃ r, contract i = some r ∧ t = s.capture r) ∨
      ∃ c, abortCause i = some c ∧ t = { s with status := { aborted := true, abortCode := c.code } }) := by
  obtain ⟨r, hout, hi⟩ | ⟨c, hout, hi⟩ := exec_eq_table i
  · obtain ⟨hs, rfl⟩ := respond_next (hi s ▸ h)
    exact ⟨hs, .inl ⟨r, (contract_of_responds hout).1, rfl⟩⟩
  · obtain ⟨hs, rfl⟩ := raiseAbort_next (hi s ▸ h)
    exact ⟨hs, .inr ⟨c, (abortCause_of_aborts hout).2, rfl⟩⟩

theorem perform_of_contract {st : Status} {w : CmdWord} {r : Response} (h : contract (decode w) = some r)
    (hst : st.aborted = false) : perform st w = (st, some r) := by
  simp [perform, exec_of_contract h, hst]

theorem perform_of_abortCause {st : Status} {w : CmdWord} {c : AbortCause} (h : abortCause (decode w) = some c)
    (hst : st.aborted = false) : perform st w = ({ aborted := true, abortCode := c.code }, none) := by
  simp [perform, exec_of_abortCause h, hst]

/-- The tables give a dutiful command a response. -/
theorem contract_of_dutiful {i : Instr} (h : i.dutiful = true) : ∃ r, contract i = some r := by
  cases i
  case add | sub | mul | eq | ne | lt | le | gt | ge => exact ⟨_, rfl⟩
  case div | mod | reserved5 | reserved6 | reserved7 | reservedE | reservedF => cases h

/-- The half of a response that its class does not use is 0 in the tables (`op[3]` is the class, R32). -/
theorem contract_inactive_half {i : Instr} {r : Response} (h : contract i = some r) :
    (i.op[3] = false → r.flag = false) ∧ (i.op[3] = true → r.value = 0) := by
  cases i
  case add | sub | mul => cases h; exact ⟨fun _ => rfl, fun hclass => absurd hclass (by simp [Instr.op])⟩
  case eq | ne | lt | le | gt | ge => cases h; exact ⟨fun hclass => absurd hclass (by simp [Instr.op]), fun _ => rfl⟩
  case div | mod | reserved5 | reserved6 | reserved7 | reservedE | reservedF => cases h

end Sys2Proof.Machine
end

section
/-! Obligations O7, O13, O15, O31 and O43: the step, its frame, the reserved operations and the ports (`30_encoding.md` R30,
R34, R35). -/

namespace Sys2Proof.Machine

open Sys2Proof.Safety

/-- Settles O7: the row of `op` in the tables, on an aborted and on a running unit. -/
theorem execIsTheStepFunction : Obligations.ExecIsTheStepFunction := by
  intro op l r s
  rw [decode_commandWord]
  have row := exec_eq_table (selectOp op l r)
  rw [selectOp_op, selectOp_lhs, selectOp_rhs] at row
  cases hs : s.status.aborted with
  | true => exact exec_of_aborted _ hs
  | false =>
    obtain ⟨rsp, hout, hi⟩ | ⟨c, hout, hi⟩ := row
    · rw [hout, hi, respond_of_running _ _ hs]; rfl
    · rw [hout, hi, raiseAbort_of_running _ hs]; rfl

theorem HostAction.eq_present {a : HostAction} {w : CmdWord} (hr : a.rst = false) (hc : a.cmd = some w) :
    a = HostAction.present w := by
  cases a; cases hr; cases hc; rfl

/-- Settles O13: only the step that runs a command with a response captures one. -/
theorem stepFrame : Obligations.StepFrame := by
  intro s t h
  obtain ⟨hs, rfl⟩ | ⟨a, rest, hs, ⟨-, rfl⟩ | ⟨-, -, rfl⟩ | ⟨w, hr, hc, hexec⟩⟩ := step_next h
  · simp [hs]
  · simp [hs]
  · simp [hs]
  · obtain ⟨hrunning, ⟨r, hrsp, rfl⟩ | ⟨c, -, rfl⟩⟩ := exec_next_by_table hexec
    · exact ⟨by simp [hs], .inr ⟨r, rfl, rfl, hrunning, w, rest, HostAction.eq_present hr hc ▸ hs, hrsp⟩⟩
    · simp [hs]

/-- Settles O15: the response captured is the one of the tables. -/
theorem inactiveHalfIsZero : Obligations.InactiveHalfIsZero := by
  intro i s t r h hr
  obtain ⟨-, ⟨r', hrsp, rfl⟩ | ⟨c, -, rfl⟩⟩ := exec_next_by_table h
  · obtain rfl : r' = r := by simpa using hr
    exact contract_inactive_half hrsp
  · simp at hr

/-- A command that answers changes the state: it captures a response or sets `ABORTED`, which was 0 (R35: no no-op). -/
theorem exec_ne_self (i : Instr) (s : State) : exec i s ≠ .next s := by
  intro h
  obtain ⟨hs, ⟨r, hsame⟩ | ⟨c, hsame⟩⟩ := exec_next h
  · simpa using congrArg State.responses hsame
  · simpa [hs] using congrArg (fun t => t.status.aborted) hsame

/-- Settles O31: all five rows are one `raiseAbort`. -/
theorem reservedOpsTakeTheIllegalAbort : Obligations.ReservedOpsTakeTheIllegalAbort := by
  refine ⟨fun l r s hs => ?_, fun l r => ?_, exec_ne_self⟩
  · have abort := raiseAbort_of_running .illegalOperation hs
    exact ⟨abort, abort, abort, abort, abort⟩
  · exact ⟨opField_encode _, opField_encode _, opField_encode _, opField_encode _, opField_encode _⟩

/-- Without an accepted command (R30) the cycle keeps or clears `STATUS` and puts no response on the ports. -/
theorem cycle_not_accepted {st : Status} {p : PortIn} (h : (p.rst || !p.cmdValid || st.aborted) = true) :
    cycle st p = (if p.rst then Status.reset else st, portsOut st (cmdReady st p.rst) none) := by
  cases hr : p.rst with
  | true => simp [cycle_reset st hr, cmdReady]
  | false =>
    cases ha : st.aborted with
    | true => simp [cycle_of_aborted hr ha, cmdReady, ha]
    | false => simp [cycle_idle st hr (by simpa [hr, ha] using h)]

theorem accepted_iff {st : Status} {p : PortIn} :
    (p.rst || !p.cmdValid || st.aborted) = false ↔ p.rst = false ∧ p.cmdValid = true ∧ st.aborted = false := by
  simp [and_assoc]

/-- The outputs of any cycle are made of `STATUS`, of `cmd_ready` as R30 gives it and of a response or none. -/
theorem cycle_out_eq_portsOut (st : Status) (p : PortIn) :
    ∃ rsp, (cycle st p).2 = portsOut st (cmdReady st p.rst) rsp := by
  cases h : p.rst || !p.cmdValid || st.aborted with
  | true => exact ⟨none, by rw [cycle_not_accepted h]⟩
  | false =>
    obtain ⟨hr, hv, ha⟩ := accepted_iff.1 h
    exact ⟨(perform st p.word).2, by rw [cycle_accepted hr hv ha]; simp [cmdReady, hr, ha]⟩

/-- Settles O43: the cycle is `cycle_not_accepted`, or that of a command accepted, with its response or its abort. -/
theorem cycleIsTheReferenceBehaviour : Obligations.CycleIsTheReferenceBehaviour := by
  intro st p
  obtain ⟨rsp, hout⟩ := cycle_out_eq_portsOut st p
  refine ⟨by rw [hout]; rfl, by rw [hout]; rfl, by rw [hout]; rfl, fun h => ?notAccepted,
    fun h => ⟨fun r hr => ?response, fun c hc => ?abort⟩, fun q hrst hq hp => ?ignored⟩
  case notAccepted => rw [cycle_not_accepted h]; exact ⟨rfl, rfl, rfl, rfl⟩
  case response =>
    obtain ⟨hrst, hv, ha⟩ := accepted_iff.1 h
    rw [cycle_accepted hrst hv ha, perform_of_contract hr ha]; exact ⟨rfl, rfl, rfl, rfl⟩
  case abort =>
    obtain ⟨hrst, hv, ha⟩ := accepted_iff.1 h
    rw [cycle_accepted hrst hv ha, perform_of_abortCause hc ha]; exact ⟨rfl, rfl, rfl, rfl⟩
  case ignored => rw [cycle_not_accepted (by simp [hq]), cycle_not_accepted (by simp [hp]), hrst]

end Sys2Proof.Machine
end

section
/-! Obligation O48: what a well-formed script of dutiful lines comes to (`30_encoding.md` R36). -/

namespace Sys2Proof.Machine

open Sys2Proof.Safety

/-- The host has kept a value under each of these labels. -/
def LabelsKept (earlier : List String) (kept : List (String × U128)) : Prop :=
  ∀ label ∈ earlier, ∃ v, kept.lookup label = some v

theorem labelsKept_nil (kept : List (String × U128)) : LabelsKept [] kept := by simp [LabelsKept]

/-- A value kept under a label takes none away from the others. -/
theorem LabelsKept.cons {earlier : List String} {kept : List (String × U128)} (h : LabelsKept earlier kept) (name : String)
    (v : U128) : LabelsKept (name :: earlier) ((name, v) :: kept) := by
  intro label hmem
  by_cases hname : label = name
  · exact ⟨v, by rw [hname, List.lookup_cons_self]⟩
  · obtain ⟨u, hu⟩ := h label ((List.mem_cons.1 hmem).resolve_left hname)
    exact ⟨u, by rw [List.lookup_cons, beq_false_of_ne hname, hu]⟩

/-- An operand form that resolves has a value. -/
theorem operandValue_of_resolves {earlier : List String} {kept : List (String × U128)} (hk : LabelsKept earlier kept)
    {o : ScriptOperand} (h : o.resolves earlier = true) : ∃ v, operandValue kept o = some v := by
  cases o with
  | hex128 v => exact ⟨v, rfl⟩
  | u64be i0 i1 => exact ⟨_, rfl⟩
  | u32be i0 i1 i2 i3 => exact ⟨_, rfl⟩
  | ref label => exact hk label (by simpa [ScriptOperand.resolves] using h)

/-- The mnemonic alone decides the host's duty. -/
theorem ScriptLine.dutiful_command {line : ScriptLine} (h : line.dutiful = true) (l r : U128) :
    (line.mnemonic.command l r).dutiful = true := by
  rw [← h, ScriptLine.dutiful]
  cases line.mnemonic <;> rfl

/-- A dutiful line whose operands have values assembles to a command that has a response. -/
theorem assemble_of_dutiful {kept : List (String × U128)} {line : ScriptLine} {l r : U128} (hd : line.dutiful = true)
    (hl : operandValue kept line.lhs = some l) (hr : operandValue kept line.rhs = some r) :
    ∃ w rsp, assemble kept line = some w ∧ contract (decode w) = some rsp := by
  obtain ⟨rsp, hrsp⟩ := contract_of_dutiful (ScriptLine.dutiful_command hd l r)
  exact ⟨encode (line.mnemonic.command l r), rsp, by rw [assemble, hl, hr], by rw [decode_encode, hrsp]⟩

/-- A line that is answered puts its response before those of the lines after it. -/
theorem runScript_cons_of_contract {kept : List (String × U128)} {st : Status} {line : ScriptLine} {w : CmdWord}
    {rsp : Response} (rest : List ScriptLine) (hw : assemble kept line = some w)
    (hrsp : contract (decode w) = some rsp) (hst : st.aborted = false) :
    runScript kept st (line :: rest) =
      { runScript (keepLabel kept line.label (some rsp)) st rest with
        responses := rsp :: (runScript (keepLabel kept line.label (some rsp)) st rest).responses } := by
  simp [runScript, hw, hst, perform_of_contract hrsp hst]

theorem resolves_of_wellFormed {earlier : List String} {line : ScriptLine} {rest : List ScriptLine}
    (hw : Script.wellFormed earlier (line :: rest) = true) :
    line.lhs.resolves earlier = true ∧ line.rhs.resolves earlier = true := by
  rw [Script.wellFormed, Bool.and_eq_true, Bool.and_eq_true] at hw
  exact hw.1

/-- After an answered line the host has kept a value under every label that the lines left may use. -/
theorem labelsKept_keepLabel {earlier : List String} {kept : List (String × U128)} {line : ScriptLine}
    {rest : List ScriptLine} (rsp : Response) (hk : LabelsKept earlier kept)
    (hw : Script.wellFormed earlier (line :: rest) = true) :
    ∃ earlier', LabelsKept earlier' (keepLabel kept line.label (some rsp)) ∧ Script.wellFormed earlier' rest = true := by
  rw [Script.wellFormed, Bool.and_eq_true] at hw
  obtain ⟨-, hrest⟩ := hw
  cases hlabel : line.label with
  | none => rw [hlabel] at hrest; exact ⟨earlier, hk, hrest⟩
  | some name =>
    rw [hlabel, Bool.and_eq_true] at hrest
    exact ⟨name :: earlier, hk.cons name rsp.value, hrest.2⟩

/-- After any lines whose labels the host has kept, by induction on the lines that are left. -/
theorem runScript_finishes {st : Status} (hst : st.aborted = false) (lines : List ScriptLine) (earlier : List String)
    (kept : List (String × U128)) (hk : LabelsKept earlier kept) (hw : Script.wellFormed earlier lines = true)
    (hd : ∀ l ∈ lines, l.dutiful = true) :
    (runScript kept st lines).ending = .finished ∧ (runScript kept st lines).status = st ∧
      (runScript kept st lines).responses.length = lines.length := by
  induction lines generalizing earlier kept with
  | nil => exact ⟨rfl, rfl, rfl⟩
  | cons line rest ih =>
    obtain ⟨hlhs, hrhs⟩ := resolves_of_wellFormed hw
    obtain ⟨l, hl⟩ := operandValue_of_resolves hk hlhs
    obtain ⟨r, hr⟩ := operandValue_of_resolves hk hrhs
    obtain ⟨w, rsp, hassemble, hrsp⟩ := assemble_of_dutiful (hd line List.mem_cons_self) hl hr
    obtain ⟨earlier', hk', hw'⟩ := labelsKept_keepLabel rsp hk hw
    obtain ⟨hend, hstatus, hlength⟩ := ih earlier' _ hk' hw' fun l hmem => hd l (List.mem_cons_of_mem _ hmem)
    rw [runScript_cons_of_contract rest hassemble hrsp hst]
    exact ⟨hend, hstatus, congrArg (· + 1) hlength⟩

/-- Settles O48: at the first line no label is kept and none is asked for. -/
theorem wellFormedScriptFinishes : Obligations.WellFormedScriptFinishes := fun lines _ hw hd hst =>
  runScript_finishes hst lines [] [] (labelsKept_nil []) hw hd

end Sys2Proof.Machine
end

section
/-! Obligation O49: what is written is read back (`30_encoding.md` R36). A number is written digit by digit from the least
significant, and read from the most significant, so it is followed through its list of digit values. -/

namespace Sys2Proof.Machine

/-! ### Digits -/

/-- The values of the digits that `hexText` writes. -/
def hexDigits : Nat → Nat → List Nat
  | 0, _ => []
  | n + 1, v => hexDigits n (v / 16) ++ [v % 16]

theorem hexText_eq_map (n v : Nat) : hexText n v = (hexDigits n v).map hexChar := by
  induction n generalizing v with
  | zero => rfl
  | succ n ih => simp [hexText, hexDigits, ih]

@[simp] theorem hexDigits_length (n v : Nat) : (hexDigits n v).length = n := by
  induction n generalizing v with
  | zero => rfl
  | succ n ih => simp [hexDigits, ih]

theorem hexDigits_lt {n v d : Nat} (h : d ∈ hexDigits n v) : d < 16 := by
  induction n generalizing v with
  | zero => simp [hexDigits] at h
  | succ n ih =>
    rcases List.mem_append.1 h with hd | hd
    · exact ih hd
    · rw [List.mem_singleton.1 hd]; exact Nat.mod_lt v (by decide)

/-- Each digit multiplies what was read before it by 16 and is added, and the division that wrote it is undone. -/
theorem digitsValue_hexDigits (n v : Nat) : digitsValue (hexDigits n v) = v % 16 ^ n := by
  induction n generalizing v with
  | zero => simp [hexDigits, digitsValue, Nat.mod_one]
  | succ n ih =>
    calc digitsValue (hexDigits (n + 1) v)
      _ = digitsValue (hexDigits n (v / 16)) * 16 + v % 16 := by simp [hexDigits, digitsValue]
      _ = v / 16 % 16 ^ n * 16 + v % 16 := by rw [ih]
      _ = v % 16 ^ (n + 1) := by rw [Nat.pow_succ', Nat.mod_mul]; omega

theorem hexChar_reads {d : Nat} (h : d < 16) :
    hexDigit (hexChar d) = some d ∧ hexChar d ≠ '_' ∧ isWordChar (hexChar d) = true := hexDigit_hexChar ⟨d, h⟩

/-- Written digits read as themselves. That there is one at least matters only where none was read before. -/
theorem readDigits_map_hexChar (ds : List Nat) (h : ∀ d ∈ ds, d < 16) (afterDigit : Bool)
    (hne : afterDigit = true ∨ ds ≠ []) : readDigits afterDigit (ds.map hexChar) = some ds := by
  induction ds generalizing afterDigit with
  | nil => simp [readDigits, hne.resolve_right (by simp)]
  | cons d ds ih =>
    obtain ⟨hread, hmark, -⟩ := hexChar_reads (h d List.mem_cons_self)
    have later := ih (fun e he => h e (List.mem_cons_of_mem _ he)) true (.inl rfl)
    simp [readDigits, hread, hmark, later]

theorem readDigits_hexText {n : Nat} (v : Nat) (hn : 1 ≤ n) : readDigits false (hexText n v) = some (hexDigits n v) := by
  have some_digit : hexDigits n v ≠ [] := List.ne_nil_of_length_pos ((hexDigits_length n v).symm ▸ hn)
  rw [hexText_eq_map]
  exact readDigits_map_hexChar _ (fun _ => hexDigits_lt) false (.inr some_digit)

/-- A number in 1 to `most` digits reads as itself. -/
theorem readHex_hexText {most n v : Nat} (hn : 1 ≤ n) (hmost : n ≤ most) (hv : v < 16 ^ n) :
    readHex most ('0' :: 'x' :: hexText n v) = some v := by
  simp [readHex, readDigits_hexText v hn, hmost, digitsValue_hexDigits, Nat.mod_eq_of_lt hv]

theorem toNat_lt_pow_sixteen {n : Nat} (x : BitVec (4 * n)) : x.toNat < 16 ^ n := by
  have := x.isLt
  rwa [Nat.pow_mul] at this

theorem readHex_hex128Text (v : U128) : readHex 32 (hex128Text v) = some v.toNat :=
  readHex_hexText (by decide) (Nat.le_refl 32) (toNat_lt_pow_sixteen (n := 32) v)

/-! ### A command word as text -/

/-- Numbers written side by side are one number written. -/
theorem hexText_append (m n a : Nat) {b : Nat} (hb : b < 16 ^ n) :
    hexText m a ++ hexText n b = hexText (m + n) (a * 16 ^ n + b) := by
  induction n generalizing b with
  | zero => simp [hexText, Nat.lt_one_iff.1 hb]
  | succ n ih =>
    have weight : a * 16 ^ (n + 1) = a * 16 ^ n * 16 := by rw [Nat.pow_succ, Nat.mul_assoc]
    have quotient : (a * 16 ^ (n + 1) + b) / 16 = a * 16 ^ n + b / 16 := by omega
    have remainder : (a * 16 ^ (n + 1) + b) % 16 = b % 16 := by omega
    rw [← Nat.add_assoc, hexText, hexText, quotient, remainder, ← ih (by omega), List.append_assoc]

/-- The 65 digits of a command word are those of its number. -/
theorem wordText_eq_hexText (w : CmdWord) : wordText w = hexText 65 w.toNat := by
  have number : w.toNat = ((opField w).toNat * 16 ^ 32 + (lhsField w).toNat) * 16 ^ 32 + (rhsField w).toNat := by
    conv_lhs => rw [← commandWord_fields w, commandWord_toNat]
    omega
  rw [wordText, number, hexText_append _ _ _ (toNat_lt_pow_sixteen (n := 32) (lhsField w)),
    hexText_append _ _ _ (toNat_lt_pow_sixteen (n := 32) (rhsField w))]

theorem readDigits_wordText (w : CmdWord) : (readDigits false (wordText w)).map digitsValue = some w.toNat := by
  rw [wordText_eq_hexText, readDigits_hexText _ (by decide), Option.map_some, digitsValue_hexDigits,
    Nat.mod_eq_of_lt (toNat_lt_pow_sixteen (n := 65) w)]

/-! ### A command as a line -/

/-- A word at the head of a text that goes on with no word character is its first token. -/
theorem tokens_word {w : List Char} (cs : List Char) (hw : ∀ c ∈ w, isWordChar c = true) (hne : w ≠ [])
    (hend : (scan cs).1 = []) : tokens (w ++ cs) = .word w :: (scan cs).2 := by
  simp [tokens, scan_word_append w cs hw, hend, closeWord, hne]

theorem scan_blank (cs : List Char) : scan (' ' :: cs) = ([], tokens cs) := rfl

theorem tokens_blank (cs : List Char) : tokens (' ' :: cs) = tokens cs := rfl

theorem scan_comma (cs : List Char) : scan (',' :: cs) = ([], .mark ',' :: tokens cs) := rfl

theorem mnemonicText_word (m : Mnemonic) : (∀ c ∈ mnemonicText m, isWordChar c = true) ∧ mnemonicText m ≠ [] := by
  rw [← List.all_eq_true]
  cases m <;> decide

theorem hex128Text_word (v : U128) : ∀ c ∈ hex128Text v, isWordChar c = true := by
  intro c hc
  rw [hex128Text, hexText_eq_map, List.mem_cons, List.mem_cons, List.mem_map] at hc
  obtain rfl | rfl | ⟨d, hd, rfl⟩ := hc
  · decide
  · decide
  · obtain ⟨-, -, hword⟩ := hexChar_reads (hexDigits_lt hd)
    exact hword

/-- The text of a command is four tokens. -/
theorem tokens_commandText (m : Mnemonic) (l r : U128) :
    tokens (commandText m l r) = [.word (mnemonicText m), .word (hex128Text l), .mark ',', .word (hex128Text r)] := by
  obtain ⟨hm, hne⟩ := mnemonicText_word m
  have last : tokens (hex128Text r) = [.word (hex128Text r)] := by
    simpa [scan] using tokens_word [] (hex128Text_word r) (List.cons_ne_nil _ _) rfl
  rw [commandText, tokens_word _ hm hne (by rw [scan_blank]), scan_blank,
    tokens_word _ (hex128Text_word l) (List.cons_ne_nil _ _) (by rw [scan_comma]), scan_comma,
    tokens_blank, last]

theorem readMnemonic_mnemonicText (m : Mnemonic) : readMnemonic (mnemonicText m) = some m := by cases m <;> rfl

/-- A word that begins as a number does is none of the other operand forms. -/
theorem readOperand_hex128Text (v : U128) (rest : List Token) :
    readOperand (.word (hex128Text v) :: rest) = some (.hex128 v, rest) := by
  have form : readOperand (.word (hex128Text v) :: rest) =
      (readHex 32 (hex128Text v)).map fun n => (.hex128 (BitVec.ofNat 128 n), rest) := by
    simp [readOperand, hex128Text]
  rw [form, readHex_hex128Text, Option.map_some, BitVec.ofNat_toNat, BitVec.setWidth_eq]

theorem readLine_commandText (m : Mnemonic) (l r : U128) :
    readLine (commandText m l r) = some { label := none, mnemonic := m, lhs := .hex128 l, rhs := .hex128 r } := by
  simp [readLine, tokens_commandText, readCommand, readMnemonic_mnemonicText, readOperand_hex128Text]

/-- Settles O49. -/
theorem writtenCommandsReadBack : Obligations.WrittenCommandsReadBack :=
  ⟨fun _ _ _ hn hmost hv => readHex_hexText hn hmost hv,
    fun w => ⟨by rw [wordText_eq_hexText, hexText_length], readDigits_wordText w⟩, readLine_commandText,
    fun _ _ _ _ _ => rfl⟩

end Sys2Proof.Machine
end

section
/-! Views and constructors as numbers: a slice is a floor and a remainder, two adjacent slices are one, and a number is the
weighted sum of its units (`40_representation.md` R41 to R47). -/

namespace Sys2Proof.Machine

/-! ### Slices -/

/-- The equation of every view (R42). -/
theorem slice_toNat {n : Nat} (v : BitVec n) (start len : Nat) :
    (v.extractLsb' start len).toNat = v.toNat / 2 ^ start % 2 ^ len := by
  rw [BitVec.extractLsb'_toNat, Nat.shiftRight_eq_div_pow]

theorem be8_toNat (v : U128) (i : Fin 16) : (be8 v i).toNat = v.toNat / 2 ^ (8 * (15 - i.val)) % 2 ^ 8 := by
  rw [be8, slice_toNat, Nat.mul_sub]

theorem be16_toNat (v : U128) (i : Fin 8) : (be16 v i).toNat = v.toNat / 2 ^ (16 * (7 - i.val)) % 2 ^ 16 := by
  rw [be16, slice_toNat, Nat.mul_sub]

theorem be32_toNat (v : U128) (i : Fin 4) : (be32 v i).toNat = v.toNat / 2 ^ (32 * (3 - i.val)) % 2 ^ 32 := by
  rw [be32, slice_toNat, Nat.mul_sub]

theorem be64_toNat (v : U128) (i : Fin 2) : (be64 v i).toNat = v.toNat / 2 ^ (64 * (1 - i.val)) % 2 ^ 64 := by
  rw [be64, slice_toNat, Nat.mul_sub]

/-- The weight index counts from the other end (`00_scope.md` R6). -/
theorem w32_eq_be32_rev (v : U128) (k : Fin 4) : w32 v k = be32 v k.rev := by
  rw [w32, be32]; congr 1; rw [Fin.val_rev]; omega

theorem w64_eq_be64_rev (v : U128) (k : Fin 2) : w64 v k = be64 v k.rev := by
  rw [w64, be64]; congr 1; rw [Fin.val_rev]; omega

/-! ### Nesting -/

theorem be64_eq_words (v : U128) (i : Fin 2) :
    be64 v i = be32 v ⟨2 * i.val, by omega⟩ ++ be32 v ⟨2 * i.val + 1, by omega⟩ := by
  rw [be32, be32, BitVec.extractLsb'_append_extractLsb'_eq_extractLsb' (by simp only; omega), be64]
  congr 1; simp only; omega

theorem be32_eq_halfwords (v : U128) (i : Fin 4) :
    be32 v i = be16 v ⟨2 * i.val, by omega⟩ ++ be16 v ⟨2 * i.val + 1, by omega⟩ := by
  rw [be16, be16, BitVec.extractLsb'_append_extractLsb'_eq_extractLsb' (by simp only; omega), be32]
  congr 1; simp only; omega

/-! ### The weighted sum -/

/-- The first unit is what is above the others, and the others are the units of the remainder. -/
theorem mod_eq_sum_units (W n x : Nat) :
    x % 2 ^ (W * (n + 1)) = ∑ i : Fin (n + 1), x / 2 ^ (W * (n - i.val)) % 2 ^ W * 2 ^ (W * (n - i.val)) := by
  induction n with
  | zero => simp
  | succ n ih =>
    rw [Fin.sum_univ_succ]
    simp only [Fin.val_succ, Nat.add_sub_add_right]
    rw [← ih, Nat.mul_succ W (n + 1), pow_add, Nat.mod_mul]
    simp [add_comm, mul_comm]

theorem toNat_eq_sum_units (v : U128) {W n : Nat} (h : W * (n + 1) = 128) :
    v.toNat = ∑ i : Fin (n + 1), v.toNat / 2 ^ (W * (n - i.val)) % 2 ^ W * 2 ^ (W * (n - i.val)) := by
  rw [← mod_eq_sum_units, h, Nat.mod_eq_of_lt v.isLt]

/-! ### The constructors -/

/-- The two constructors agree (R45): the upper two words are one half, the lower two the other. -/
theorem fromU32Be_eq_fromU64Be (i0 i1 i2 i3 : W32) : fromU32Be i0 i1 i2 i3 = fromU64Be (i0 ++ i1) (i2 ++ i3) :=
  BitVec.append_assoc

theorem append_eq_shift_or (x y : W32) : x ++ y = x.zeroExtend 64 <<< 32 ||| y.zeroExtend 64 := by
  rw [← BitVec.setWidth_eq (x ++ y), BitVec.setWidth_append_eq_shiftLeft_setWidth_or]

theorem fromU32Be_eq_shift_or (i0 i1 i2 i3 : W32) :
    fromU32Be i0 i1 i2 i3 =
      (i0.zeroExtend 128 <<< 96 ||| i1.zeroExtend 128 <<< 64 ||| i2.zeroExtend 128 <<< 32 ||| i3.zeroExtend 128) := by
  rw [← BitVec.setWidth_eq (fromU32Be i0 i1 i2 i3), fromU32Be,
    BitVec.setWidth_append_append_append_eq_shiftLeft_setWidth_or]

theorem be64_zero_fromU64Be (i0 i1 : W64) : be64 (fromU64Be i0 i1) 0 = i0 := BitVec.extractLsb'_append_eq_left

theorem be64_one_fromU64Be (i0 i1 : W64) : be64 (fromU64Be i0 i1) 1 = i1 := BitVec.extractLsb'_append_eq_right

/-- The accessor laws of R43, one index at a time. -/
theorem be32_fromU32Be (i0 i1 i2 i3 : W32) (i : Fin 4) : be32 (fromU32Be i0 i1 i2 i3) i = ![i0, i1, i2, i3] i := by
  apply BitVec.eq_of_toNat_eq
  rw [be32_toNat, ← joinLimbs, joinLimbs_toNat]
  fin_cases i <;> simp <;> omega

/-- A value is made of its four words (R46). -/
theorem fromU32Be_be32 (v : U128) : fromU32Be (be32 v 0) (be32 v 1) (be32 v 2) (be32 v 3) = v :=
  calc fromU32Be (be32 v 0) (be32 v 1) (be32 v 2) (be32 v 3)
      = fromU64Be (be32 v 0 ++ be32 v 1) (be32 v 2 ++ be32 v 3) := fromU32Be_eq_fromU64Be _ _ _ _
    _ = fromU64Be (be64 v 0) (be64 v 1) := by rw [be64_eq_words, be64_eq_words]; rfl
    _ = v := fromU64Be_be64 v

end Sys2Proof.Machine
end

section
/-! Obligations O37 to O39 (`40_representation.md` R41 to R47). -/

namespace Sys2Proof.Machine

/-- Settles O37: the sums are one lemma about the units of a number, at four widths. -/
theorem viewsAreTheSlicesOfTheValue : Obligations.ViewsAreTheSlicesOfTheValue := by
  intro v
  refine ⟨be8_toNat v, be16_toNat v, be32_toNat v, be64_toNat v, ?_, ?_, ?_, ?_, rfl, rfl, ?_, w32_eq_be32_rev v,
    w64_eq_be64_rev v⟩
  · simpa only [be8_toNat] using toNat_eq_sum_units v (W := 8) (n := 15) rfl
  · simpa only [be16_toNat] using toNat_eq_sum_units v (W := 16) (n := 7) rfl
  · simpa only [be32_toNat] using toNat_eq_sum_units v (W := 32) (n := 3) rfl
  · simpa only [be64_toNat] using toNat_eq_sum_units v (W := 64) (n := 1) rfl
  · rw [← append_toNat]
    exact congrArg BitVec.toNat (fromU64Be_be64 v).symm

/-- Settles O38. -/
theorem viewsNest : Obligations.ViewsNest := fun v =>
  ⟨be64_eq_words v, be32_eq_halfwords v,
    fun i => be16_eq_bytes v i (fun j => ⟨2 * i.val + j.val, by omega⟩) fun _ => rfl⟩

/-- Settles O39. -/
theorem constructorsAreBijections : Obligations.ConstructorsAreBijections := by
  refine ⟨fun i0 i1 i2 i3 => ⟨fromU32Be_eq_shift_or i0 i1 i2 i3, joinLimbs_toNat i0 i1 i2 i3, ?_⟩,
    fun i0 i1 => ⟨append_toNat i0 i1, be64_zero_fromU64Be i0 i1, be64_one_fromU64Be i0 i1⟩,
    fun v => ⟨fromU32Be_be32 v, fromU64Be_be64 v⟩⟩
  have word := be32_fromU32Be i0 i1 i2 i3
  refine ⟨word 0, word 1, word 2, word 3, ?_⟩
  rw [fromU32Be_eq_fromU64Be, append_eq_shift_or, append_eq_shift_or]

end Sys2Proof.Machine
end

section
/-! The ripple structures as numbers (`41_add_sub.md` R50, R51, R54): the limbs' equations telescope, over the two low
limbs and over all four. -/

namespace Sys2Proof.Machine

/-! ### Halves and limbs -/

theorem toNat_eq_halves (v : U128) : v.toNat = (hi v).toNat * 2 ^ 64 + (lo v).toNat := by
  have := v.isLt
  rw [hi_toNat, lo_toNat]
  omega

/-- The low half is the two low limbs (R53). -/
theorem lo_eq_limbs (v : U128) : lo v = w32 v 1 ++ w32 v 0 := be64_eq_words v 1

/-- The high half is the two high limbs (R53). -/
theorem hi_eq_limbs (v : U128) : hi v = w32 v 3 ++ w32 v 2 := be64_eq_words v 0

theorem lo_toNat_eq_limbs (v : U128) : (lo v).toNat = (w32 v 1).toNat * 2 ^ 32 + (w32 v 0).toNat := by
  rw [lo_eq_limbs, append_toNat]

/-! ### A limb with an all-ones `rhs` and a carry or borrow in -/

theorem addLimb_allOnes (x : W32) : addLimb x 0xFFFFFFFF true = (x, true) := by
  have account := addLimb_exact x 0xFFFFFFFF true
  have hx := x.isLt
  have hs := (addLimb x 0xFFFFFFFF true).1.isLt
  rw [show (0xFFFFFFFF : W32).toNat = 2 ^ 32 - 1 from rfl, Bool.toNat_true] at account
  exact Prod.ext (BitVec.eq_of_toNat_eq (y := x) (by omega)) (Bool.toNat_eq_one.1 (by omega))

theorem subLimb_allOnes (x : W32) : subLimb x 0xFFFFFFFF true = (x, true) := by
  have account := subLimb_exact x 0xFFFFFFFF true
  have hx := x.isLt
  have hd := (subLimb x 0xFFFFFFFF true).1.isLt
  rw [show (0xFFFFFFFF : W32).toNat = 2 ^ 32 - 1 from rfl, Bool.toNat_true] at account
  exact Prod.ext (BitVec.eq_of_toNat_eq (y := x) (by omega)) (Bool.toNat_eq_one.1 (by omega))

/-! ### The ripple adder -/

/-- The two low limbs account for the exact sum of the low halves, with the carry `c[2]`. -/
theorem rippleAdd_low_exact (l r : U128) :
    (lo l).toNat + (lo r).toNat = (rippleAdd l r).c2.toNat * 2 ^ 64 + (lo (rippleAdd l r).value).toNat := by
  have limb0 := addLimb_exact (w32 l 0) (w32 r 0) false
  have limb1 := addLimb_exact (w32 l 1) (w32 r 1) (rippleAdd l r).c1
  simp only [lo_toNat_eq_limbs l, lo_toNat_eq_limbs r, lo_toNat, rippleAdd, limbChain, joinLimbs_toNat,
    Bool.toNat_false] at limb0 limb1 ⊢
  omega

/-- The four limbs account for the exact sum, with the carry `c[4]`. -/
theorem rippleAdd_exact (l r : U128) :
    l.toNat + r.toNat = (rippleAdd l r).c4.toNat * 2 ^ 128 + (rippleAdd l r).value.toNat := by
  have limb0 := addLimb_exact (w32 l 0) (w32 r 0) false
  have limb1 := addLimb_exact (w32 l 1) (w32 r 1) (rippleAdd l r).c1
  have limb2 := addLimb_exact (w32 l 2) (w32 r 2) (rippleAdd l r).c2
  have limb3 := addLimb_exact (w32 l 3) (w32 r 3) (rippleAdd l r).c3
  rw [toNat_eq_limbs l, toNat_eq_limbs r]
  simp only [rippleAdd, limbChain, joinLimbs_toNat, Bool.toNat_false] at limb0 limb1 limb2 limb3 ⊢
  omega

theorem rippleAdd_value (l r : U128) : (rippleAdd l r).value = u128Add l r := by
  apply BitVec.eq_of_toNat_eq
  rw [u128Add, BitVec.toNat_ofNat, rippleAdd_exact, Nat.mul_add_mod_of_lt (rippleAdd l r).value.isLt]

/-! ### The ripple subtractor -/

/-- The two low limbs account for the exact difference of the low halves, with the borrow `b[2]`. -/
theorem rippleSub_low_exact (l r : U128) :
    ((lo l).toNat : Int) - (lo r).toNat =
      -((rippleSub l r).c2.toNat : Int) * 2 ^ 64 + (lo (rippleSub l r).value).toNat := by
  have limb0 := subLimb_exact (w32 l 0) (w32 r 0) false
  have limb1 := subLimb_exact (w32 l 1) (w32 r 1) (rippleSub l r).c1
  simp only [lo_toNat_eq_limbs l, lo_toNat_eq_limbs r, lo_toNat, rippleSub, limbChain, joinLimbs_toNat,
    Bool.toNat_false] at limb0 limb1 ⊢
  omega

/-- The four limbs account for the exact difference, with the borrow `b[4]`. -/
theorem rippleSub_exact (l r : U128) :
    (l.toNat : Int) - r.toNat = -((rippleSub l r).c4.toNat : Int) * 2 ^ 128 + (rippleSub l r).value.toNat := by
  have limb0 := subLimb_exact (w32 l 0) (w32 r 0) false
  have limb1 := subLimb_exact (w32 l 1) (w32 r 1) (rippleSub l r).c1
  have limb2 := subLimb_exact (w32 l 2) (w32 r 2) (rippleSub l r).c2
  have limb3 := subLimb_exact (w32 l 3) (w32 r 3) (rippleSub l r).c3
  rw [toNat_eq_limbs l, toNat_eq_limbs r]
  simp only [rippleSub, limbChain, joinLimbs_toNat, Bool.toNat_false] at limb0 limb1 limb2 limb3 ⊢
  omega

theorem rippleSub_value (l r : U128) : (rippleSub l r).value = u128Sub l r := by
  apply BitVec.eq_of_toNat_eq
  have account := rippleSub_exact l r
  have hv := (rippleSub l r).value.isLt
  have hl := l.isLt
  have hr := r.isLt
  have hb := (rippleSub l r).c4.toNat_le
  rw [u128Sub_toNat]
  omega

theorem u128Sub_toNat_of_le {l r : U128} (h : r.toNat ≤ l.toNat) : (u128Sub l r).toNat = l.toNat - r.toNat := by
  have hl := l.isLt
  rw [u128Sub_toNat]
  omega

theorem u128Sub_toNat_of_lt {l r : U128} (h : l.toNat < r.toNat) :
    (u128Sub l r).toNat = l.toNat + 2 ^ 128 - r.toNat := by
  rw [u128Sub_toNat]
  omega

/-! ### When a difference and its opposite agree (R55) -/

/-- Two differences in opposite directions add up to 0 modulo `2^128`, so they agree exactly when their double is 0. -/
theorem u128Sub_comm_iff (a b : U128) :
    u128Sub a b = u128Sub b a ↔ (u128Sub a b).toNat = 0 ∨ (u128Sub a b).toNat = 2 ^ 127 := by
  have ha := a.isLt
  have hb := b.isLt
  rw [← BitVec.toNat_inj, u128Sub_toNat, u128Sub_toNat]
  omega

/-! ### Both strategies (R54) -/

theorem addBy_eq (strategy : ImplStrategy) (l r : U128) : addBy strategy l r = u128Add l r := by
  cases strategy
  case ripple => exact rippleAdd_value l r
  case parallel => rw [addBy, selectLimb_eq]; exact rippleAdd_value l r

theorem subBy_eq (strategy : ImplStrategy) (l r : U128) : subBy strategy l r = u128Sub l r := by
  cases strategy
  case ripple => exact rippleSub_value l r
  case parallel => rw [subBy, selectLimb_eq]; exact rippleSub_value l r

/-! ### The carries and the borrows -/

/-- An exact account of a sum fixes its carry, because what remains is below the weight of the carry. -/
theorem carry_of_exact {W a b s : Nat} {carry : Bool} (h : a + b = carry.toNat * 2 ^ W + s) (hs : s < 2 ^ W) :
    carry = decide (2 ^ W ≤ a + b) := by
  cases carry <;> simp at h ⊢ <;> omega

/-- An exact account of a difference fixes its borrow. -/
theorem borrow_of_exact {W a b d : Nat} {borrow : Bool} (h : (a : Int) - b = -(borrow.toNat : Int) * 2 ^ W + d)
    (hd : d < 2 ^ W) : borrow = decide (a < b) := by
  have hd' : (d : Int) < 2 ^ W := mod_cast hd
  cases borrow <;> simp at h ⊢ <;> omega

theorem rippleAdd_c2 (l r : U128) : (rippleAdd l r).c2 = decide (2 ^ 64 ≤ (lo l).toNat + (lo r).toNat) :=
  carry_of_exact (rippleAdd_low_exact l r) (lo _).isLt

theorem rippleSub_c2 (l r : U128) : (rippleSub l r).c2 = decide ((lo l).toNat < (lo r).toNat) :=
  borrow_of_exact (rippleSub_low_exact l r) (lo _).isLt

theorem rippleSub_c4 (l r : U128) : (rippleSub l r).c4 = decide (l.toNat < r.toNat) :=
  borrow_of_exact (rippleSub_exact l r) (rippleSub l r).value.isLt

end Sys2Proof.Machine
end

section
/-! Carry and borrow by comparison (`41_add_sub.md` R52), at any width, and the two-halves form (R53). -/

namespace Sys2Proof.Machine

/-! ### The comparison finds the carry and the borrow -/

theorem sumWith_toNat {W : Nat} (x y : BitVec W) (cin : Bool) :
    (sumWith x y cin).toNat = (x.toNat + y.toNat + cin.toNat) % 2 ^ W := BitVec.toNat_ofNat _ _

theorem diffWith_toNat {W : Nat} (x y : BitVec W) (cin : Bool) :
    ((diffWith x y cin).toNat : Int) = ((x.toNat : Int) - y.toNat - cin.toNat) % 2 ^ W := by
  have width : (0 : Int) < 2 ^ W := by positivity
  rw [diffWith, BitVec.toNat_ofInt]
  push_cast
  rw [Int.toNat_of_nonneg (Int.emod_nonneg _ width.ne')]

/-- With a carry the sum is `x + y + cin - 2^W`, which is below `x` unless `y` is all ones and `cin = 1`; without one it is
at least `x`, and `x` itself only if `cin = 0`. -/
theorem carry_iff_compare {W : Nat} (x y : BitVec W) (cin : Bool) :
    ((sumWith x y cin).toNat < x.toNat ∨ cin = true ∧ (sumWith x y cin).toNat = x.toNat) ↔
      2 ^ W ≤ x.toNat + y.toNat + cin.toNat := by
  have hx := x.isLt
  have hy := y.isLt
  have hc := cin.toNat_le
  rw [sumWith_toNat]
  by_cases h : 2 ^ W ≤ x.toNat + y.toNat + cin.toNat
  · rw [Nat.mod_eq_sub_mod h, Nat.mod_eq_of_lt (by omega)]
    cases cin <;> simp at h ⊢ <;> omega
  · rw [Nat.mod_eq_of_lt (by omega)]
    cases cin <;> simp at h ⊢ <;> omega

/-- With a borrow the difference is `x - y - cin + 2^W`, which is above `x` unless `y` is all ones and `cin = 1`; without one
it is at most `x`, and `x` itself only if `cin = 0`. -/
theorem borrow_iff_compare {W : Nat} (x y : BitVec W) (cin : Bool) :
    (x.toNat < (diffWith x y cin).toNat ∨ cin = true ∧ (diffWith x y cin).toNat = x.toNat) ↔
      x.toNat < y.toNat + cin.toNat := by
  have hx := x.isLt
  have hy := y.isLt
  have hc := cin.toNat_le
  have hd := diffWith_toNat x y cin
  have hpow : ((2 ^ W : Nat) : Int) = 2 ^ W := by push_cast; rfl
  by_cases h : x.toNat < y.toNat + cin.toNat
  · rw [← Int.add_emod_right, Int.emod_eq_of_lt (by omega) (by omega)] at hd
    cases cin <;> simp at h hd ⊢ <;> omega
  · rw [Int.emod_eq_of_lt (by omega) (by omega)] at hd
    cases cin <;> simp at h hd ⊢ <;> omega

theorem carryTest32_eq_decide (x y : W32) (cin : Bool) :
    carryTest32 x y cin = decide (2 ^ 32 ≤ x.toNat + y.toNat + cin.toNat) := by
  rw [Bool.eq_iff_iff, decide_eq_true_iff, ← carry_iff_compare]
  simp [carryTest32, cmp32Lt, cmp32Eq_eq_decide]

theorem borrowTest32_eq_decide (x y : W32) (cin : Bool) :
    borrowTest32 x y cin = decide (x.toNat < y.toNat + cin.toNat) := by
  rw [Bool.eq_iff_iff, decide_eq_true_iff, ← borrow_iff_compare]
  simp [borrowTest32, cmp32Lt, cmp32Eq_eq_decide]

theorem carryTest64_eq_decide (x y : W64) (cin : Bool) :
    carryTest64 x y cin = decide (2 ^ 64 ≤ x.toNat + y.toNat + cin.toNat) := by
  rw [Bool.eq_iff_iff, decide_eq_true_iff, ← carry_iff_compare]
  simp [carryTest64, cmp64Lt_eq_decide, cmp64Eq_eq_decide]

theorem borrowTest64_eq_decide (x y : W64) (cin : Bool) :
    borrowTest64 x y cin = decide (x.toNat < y.toNat + cin.toNat) := by
  rw [Bool.eq_iff_iff, decide_eq_true_iff, ← borrow_iff_compare]
  simp [borrowTest64, cmp64Lt_eq_decide, cmp64Eq_eq_decide]

/-! ### Limbs made with the tests -/

theorem addLimbByCompare_eq (x y : W32) (cin : Bool) : addLimbByCompare x y cin = addLimb x y cin := by
  have hx := x.isLt
  have hy := y.isLt
  have hc := cin.toNat_le
  have carry : 2 ^ 32 ≤ x.toNat + y.toNat + cin.toNat ↔ (x.toNat + y.toNat + cin.toNat) / 2 ^ 32 = 1 := by omega
  rw [addLimbByCompare, carryTest32_eq_decide, decide_eq_decide.2 carry]
  rfl

theorem subLimbByCompare_eq (x y : W32) (bin : Bool) : subLimbByCompare x y bin = subLimb x y bin := by
  have borrow : x.toNat < y.toNat + bin.toNat ↔ (x.toNat : Int) - y.toNat - bin.toNat < 0 := by omega
  rw [subLimbByCompare, borrowTest32_eq_decide, decide_eq_decide.2 borrow]
  rfl

/-! ### The source's tests, without a carry in -/

theorem sumWith_false (x y : W64) : sumWith x y false = x + y :=
  BitVec.eq_of_toNat_eq (by rw [sumWith_toNat, BitVec.toNat_add, Bool.toNat_false, Nat.add_zero])

theorem diffWith_false (x y : W64) : diffWith x y false = x - y := by
  have account := diffWith_toNat x y false
  apply BitVec.eq_of_toNat_eq
  rw [BitVec.toNat_sub]
  simp only [Bool.toNat_false] at account
  omega

theorem carryTest64_false (x y : W64) : carryTest64 x y false = cmp64Lt (x + y) x := by
  rw [carryTest64, sumWith_false, Bool.false_and, Bool.or_false]

theorem borrowTest64_false (x y : W64) : borrowTest64 x y false = cmp64Lt x (x - y) := by
  rw [borrowTest64, diffWith_false, Bool.false_and, Bool.or_false]

theorem cmp64Lt_add_left (x y : W64) : cmp64Lt (x + y) x = decide (2 ^ 64 ≤ x.toNat + y.toNat) := by
  rw [← carryTest64_false, carryTest64_eq_decide, Bool.toNat_false, Nat.add_zero]

theorem cmp64Lt_sub_right (x y : W64) : cmp64Lt x (x - y) = decide (x.toNat < y.toNat) := by
  rw [← borrowTest64_false, borrowTest64_eq_decide, Bool.toNat_false, Nat.add_zero]

/-! ### The two-halves form -/

theorem twoHalvesAdd_eq (l r : U128) : twoHalvesAdd l r = u128Add l r := by
  apply BitVec.eq_of_toNat_eq
  have hl := (lo l).isLt
  have hr := (lo r).isLt
  simp only [twoHalvesAdd, append_toNat, BitVec.toNat_add, BitVec.toNat_ofNat, cmp64Lt_add_left, u128Add,
    toNat_eq_halves l, toNat_eq_halves r]
  by_cases carry : 2 ^ 64 ≤ (lo l).toNat + (lo r).toNat
  · simp only [carry, decide_true, Bool.toNat_true]; omega
  · simp only [carry, decide_false, Bool.toNat_false]; omega

theorem twoHalvesSub_eq (l r : U128) : twoHalvesSub l r = u128Sub l r := by
  apply BitVec.eq_of_toNat_eq
  have hl := (lo l).isLt
  have hr := (lo r).isLt
  have hhl := (hi l).isLt
  have hhr := (hi r).isLt
  simp only [twoHalvesSub, append_toNat, BitVec.toNat_sub, BitVec.toNat_ofNat, cmp64Lt_sub_right, u128Sub_toNat,
    toNat_eq_halves l, toNat_eq_halves r]
  by_cases borrow : (lo l).toNat < (lo r).toNat
  · simp only [borrow, decide_true, Bool.toNat_true]; omega
  · simp only [borrow, decide_false, Bool.toNat_false]; omega

end Sys2Proof.Machine
end

section
/-! The structures of the multiplier as numbers (`42_multiply.md` R61 to R63): what the ten kept products come to, in columns
and in an array. -/

namespace Sys2Proof.Machine

theorem partialProduct_toNat (l r : U128) (i j : Fin 4) :
    (partialProduct l r i j).toNat = (w32 l i).toNat * (w32 r j).toNat := by
  have bound : (w32 l i).toNat * (w32 r j).toNat < 2 ^ 32 * 2 ^ 32 := Nat.mul_lt_mul'' (w32 l i).isLt (w32 r j).isLt
  rw [partialProduct, BitVec.toNat_ofNat, Nat.mod_eq_of_lt (by omega)]

/-- A sum over the kept pairs with a weight for each column, by columns. -/
theorem sum_keptPairs (f : Fin 4 → Fin 4 → Nat) (weight : Nat → Nat) :
    (keptPairs.map fun p => f p.1 p.2 * weight (p.1.val + p.2.val)).sum =
      f 0 0 * weight 0 + (f 1 0 + f 0 1) * weight 1 + (f 2 0 + f 1 1 + f 0 2) * weight 2 +
        (f 3 0 + f 2 1 + f 1 2 + f 0 3) * weight 3 := by
  simp [keptPairs, limbPairs]
  ring

/-- The ten kept products, each at its weight (R61). -/
def keptSum (l r : U128) : Nat :=
  (keptPairs.map fun p => (partialProduct l r p.1 p.2).toNat * 2 ^ (32 * (p.1.val + p.2.val))).sum

theorem keptSum_eq_columns (l r : U128) :
    keptSum l r = (partialProduct l r 0 0).toNat +
      ((partialProduct l r 1 0).toNat + (partialProduct l r 0 1).toNat) * 2 ^ 32 +
      ((partialProduct l r 2 0).toNat + (partialProduct l r 1 1).toNat + (partialProduct l r 0 2).toNat) * 2 ^ 64 +
      ((partialProduct l r 3 0).toNat + (partialProduct l r 2 1).toNat + (partialProduct l r 1 2).toNat +
        (partialProduct l r 0 3).toNat) * 2 ^ 96 := by
  rw [keptSum, sum_keptPairs (fun i j => (partialProduct l r i j).toNat) (fun n => 2 ^ (32 * n)), Nat.mul_zero,
    pow_zero, Nat.mul_one]

/-- The six products that are discarded weigh at least `2^128` each, so the kept ones give the low half of the exact product
(R63). -/
theorem mul_mod_eq_keptSum (l r : U128) : l.toNat * r.toNat % 2 ^ 128 = keptSum l r % 2 ^ 128 := by
  have account : l.toNat * r.toNat = keptSum l r + 2 ^ 128 *
      ((partialProduct l r 3 1).toNat + (partialProduct l r 2 2).toNat + (partialProduct l r 1 3).toNat +
        ((partialProduct l r 3 2).toNat + (partialProduct l r 2 3).toNat) * 2 ^ 32 +
        (partialProduct l r 3 3).toNat * 2 ^ 64) := by
    rw [keptSum_eq_columns, toNat_eq_limbs l, toNat_eq_limbs r]
    simp only [partialProduct_toNat]
    ring
  rw [account, Nat.add_mul_mod_self_left]

theorem mulArray_toNat (l r : U128) : (mulArray l r).toNat = l.toNat * r.toNat % 2 ^ 128 := by
  rw [mul_mod_eq_keptSum]
  exact BitVec.toNat_ofNat _ _

theorem lo32_add_hi32 (p : W64) : lo32 p + hi32 p * 2 ^ 32 = p.toNat := Nat.mod_add_div' _ _

/-- A product at column 3 reaches beyond bit 127 with its high piece, which the columns leave out. -/
theorem mulColumns_value_toNat (l r : U128) : (mulColumns l r).value.toNat = l.toNat * r.toNat % 2 ^ 128 := by
  rw [mul_mod_eq_keptSum, keptSum_eq_columns]
  simp only [← lo32_add_hi32, MulColumns.value, joinLimbs_toNat, BitVec.toNat_ofNat, mulColumns]
  omega

theorem mulBy_eq (strategy : ImplStrategy) (l r : U128) : mulBy strategy l r = u128Mul l r := by
  apply BitVec.eq_of_toNat_eq
  rw [u128Mul, BitVec.toNat_ofNat]
  cases strategy
  case ripple => exact mulColumns_value_toNat l r
  case parallel => exact mulArray_toNat l r

end Sys2Proof.Machine
end

section
/-! Obligations O20 to O25: addition and subtraction (`41_add_sub.md` R50 to R55). -/

namespace Sys2Proof.Machine

/-- Settles O20: the limbs' exact account of the sum fixes both the value and the last carry. -/
theorem addRespondsTheSum : Obligations.AddRespondsTheSum := by
  refine ⟨fun l r s hs => ?_, fun l r => opField_encode _, fun l r => ⟨?_, rippleAdd_exact l r⟩, fun x => ?_⟩
  · rw [← u128Add_eq_ofNat_mod]
    exact respond_of_running _ _ hs
  · rw [rippleAdd_value, u128Add_eq_ofNat_mod]
  · exact addLimb_allOnes x

/-- Settles O21: the response and the ripple subtractor are one function, `u128Sub`, whose two cases are lemmas. -/
theorem subRespondsTheDifference : Obligations.SubRespondsTheDifference := by
  refine ⟨fun l r s hs => ⟨u128Sub l r, respond_of_running _ _ hs, u128Sub_toNat_of_le, u128Sub_toNat_of_lt,
    rippleSub_value l r⟩, fun l r => opField_encode _, fun l r => ⟨rippleSub_exact l r, ?_⟩, subLimb_allOnes⟩
  rw [rippleSub_c4, decide_eq_true_iff]

/-- Settles O22: each test decides the inequality between the exact numbers. -/
theorem carryAndBorrowByComparison : Obligations.CarryAndBorrowByComparison := by
  refine ⟨fun x y cin => ⟨?_, ?_, addLimbByCompare_eq x y cin, subLimbByCompare_eq x y cin⟩,
    fun x y cin => ⟨?_, ?_⟩, fun x y => ⟨carryTest64_false x y, borrowTest64_false x y⟩⟩
  · rw [carryTest32_eq_decide, decide_eq_true_iff]
  · rw [borrowTest32_eq_decide, decide_eq_true_iff]
  · rw [carryTest64_eq_decide, decide_eq_true_iff]
  · rw [borrowTest64_eq_decide, decide_eq_true_iff]

/-- Settles O23: the carry of the two low limbs and the source's test decide the same inequality. -/
theorem twoHalvesFormIsTheSame : Obligations.TwoHalvesFormIsTheSame := fun l r =>
  ⟨twoHalvesAdd_eq l r, twoHalvesSub_eq l r, lo_eq_limbs l, hi_eq_limbs l,
    (rippleAdd_c2 l r).trans (cmp64Lt_add_left _ _).symm, (rippleSub_c2 l r).trans (cmp64Lt_sub_right _ _).symm⟩

/-- Settles O24: both strategies are the same function of the operands. -/
theorem strategyIsNotObservable : Obligations.StrategyIsNotObservable := by
  intro strategy l r
  rw [addBy_eq, subBy_eq, mulBy_eq]
  exact ⟨BitVec.toNat_ofNat _ _, u128Sub_toNat l r, BitVec.toNat_ofNat _ _⟩

/-- Settles O25: the functions are the ring operations of `BitVec 128`. -/
theorem additionLaws : Obligations.AdditionLaws := by
  have zero : fromU64Be 0 0 = 0#128 := rfl
  refine ⟨fun a => ?identity, fun a => ?self, fun a b => ?comm, fun a b c => ?assoc, by decide, fun a b => ?inverse,
    fun a => ⟨?subZero, ?negation⟩, u128Sub_comm_iff, ⟨0, 1, by decide⟩, ⟨0, 0, 1, by decide⟩⟩
  case identity => rw [u128Add_eq, zero, BitVec.add_zero]
  case self => rw [u128Sub_eq, zero, BitVec.sub_self]
  case comm => rw [u128Add_eq, u128Add_eq, BitVec.add_comm]
  case assoc => simp only [u128Add_eq, BitVec.add_assoc]
  case inverse =>
    rw [u128Add_eq, u128Sub_eq, u128Sub_eq, u128Add_eq]
    exact ⟨BitVec.add_sub_cancel a b, BitVec.sub_add_cancel a b⟩
  case subZero => rw [u128Sub_eq]; exact BitVec.sub_zero a
  case negation => rw [u128Sub_toNat]; rfl

end Sys2Proof.Machine
end

section
/-! The kept and the discarded limb pairs, the column sums and `u128Mul` as a function of numbers (`42_multiply.md` R61 to R66). -/

namespace Sys2Proof.Machine

/-! ### The pairs kept and discarded (R61, R63) -/

theorem mem_limbPairs (p : Fin 4 × Fin 4) : p ∈ limbPairs := by
  revert p; decide

theorem mem_keptPairs {p : Fin 4 × Fin 4} : p ∈ keptPairs ↔ p.1.val + p.2.val ≤ 3 := by
  rw [keptPairs, List.mem_filter, decide_eq_true_iff, and_iff_right (mem_limbPairs p)]

theorem mem_discardedPairs {p : Fin 4 × Fin 4} : p ∈ discardedPairs ↔ 4 ≤ p.1.val + p.2.val := by
  rw [discardedPairs, List.mem_filter, decide_eq_true_iff, and_iff_right (mem_limbPairs p)]

theorem mem_discardedPairs_iff_not_mem_keptPairs (p : Fin 4 × Fin 4) : p ∈ discardedPairs ↔ p ∉ keptPairs := by
  rw [mem_discardedPairs, mem_keptPairs, Nat.not_le, Nat.succ_le_iff]

/-- Long multiplication of four limbs in any base. -/
theorem sum_limbPairs (x y : Fin 4 → Nat) (base : Nat) :
    (limbPairs.map fun p => x p.1 * y p.2 * base ^ (p.1.val + p.2.val)).sum =
      (x 3 * base ^ 3 + x 2 * base ^ 2 + x 1 * base + x 0) * (y 3 * base ^ 3 + y 2 * base ^ 2 + y 1 * base + y 0) := by
  simp only [limbPairs, List.map_cons, List.map_nil, List.sum_cons, List.sum_nil, Fin.val_zero, Fin.val_one, Fin.val_two,
    show (3 : Fin 4).val = 3 from rfl]
  ring

/-- The exact product is that of the limbs in base `2^32` (R65). -/
theorem mul_eq_sum_limbPairs (l r : U128) : l.toNat * r.toNat =
    (limbPairs.map fun p => (partialProduct l r p.1 p.2).toNat * 2 ^ (32 * (p.1.val + p.2.val))).sum := by
  simp only [partialProduct_toNat, pow_mul]
  rw [sum_limbPairs (fun i => (w32 l i).toNat) (fun j => (w32 r j).toNat), toNat_eq_limbs l, toNat_eq_limbs r,
    ← pow_mul, ← pow_mul]

/-- The weight `2^(32(i+j))` of a discarded product is itself a multiple of `2^128` (R63). -/
theorem dvd_of_mem_discardedPairs (l r : U128) {p : Fin 4 × Fin 4} (h : p ∈ discardedPairs) :
    2 ^ 128 ∣ (partialProduct l r p.1 p.2).toNat * 2 ^ (32 * (p.1.val + p.2.val)) := by
  have weight : 4 ≤ p.1.val + p.2.val := mem_discardedPairs.1 h
  exact dvd_mul_of_dvd_right (pow_dvd_pow 2 (by omega)) _

/-! ### The bounds of the pieces and of the columns (R64) -/

theorem lo32_le (p : W64) : lo32 p ≤ 2 ^ 32 - 1 := Nat.le_pred_of_lt (Nat.mod_lt _ (by decide))

theorem hi32_le (p : W64) : hi32 p ≤ 2 ^ 32 - 1 := by
  have bound : p.toNat < 2 ^ 32 * 2 ^ 32 := p.isLt
  exact Nat.le_pred_of_lt (Nat.div_lt_of_lt_mul bound)

/-- Column 0 is one piece, so it fits its limb. -/
theorem mulColumns_carry0 (l r : U128) : (mulColumns l r).s0 / 2 ^ 32 = 0 :=
  Nat.div_eq_of_lt (Nat.lt_of_le_pred (by decide) (lo32_le _))

/-- Column 1 is three pieces. -/
theorem mulColumns_s1_le (l r : U128) : (mulColumns l r).s1 ≤ 3 * (2 ^ 32 - 1) := by
  have column : (mulColumns l r).s1 = (mulColumns l r).s0 / 2 ^ 32 + hi32 (partialProduct l r 0 0) +
    lo32 (partialProduct l r 1 0) + lo32 (partialProduct l r 0 1) := rfl
  have h00 := hi32_le (partialProduct l r 0 0)
  have h10 := lo32_le (partialProduct l r 1 0)
  have h01 := lo32_le (partialProduct l r 0 1)
  rw [column, mulColumns_carry0]
  omega

theorem mulColumns_k1_le (l r : U128) : (mulColumns l r).k1 ≤ 2 := by
  have := mulColumns_s1_le l r
  rw [MulColumns.k1]
  omega

/-- Column 2 is five pieces and a carry of at most 2. -/
theorem mulColumns_s2_le (l r : U128) : (mulColumns l r).s2 ≤ 2 + 5 * (2 ^ 32 - 1) := by
  have column : (mulColumns l r).s2 = (mulColumns l r).k1 + hi32 (partialProduct l r 1 0) +
    hi32 (partialProduct l r 0 1) + lo32 (partialProduct l r 2 0) + lo32 (partialProduct l r 1 1) +
    lo32 (partialProduct l r 0 2) := rfl
  have carry := mulColumns_k1_le l r
  have h10 := hi32_le (partialProduct l r 1 0)
  have h01 := hi32_le (partialProduct l r 0 1)
  have h20 := lo32_le (partialProduct l r 2 0)
  have h11 := lo32_le (partialProduct l r 1 1)
  have h02 := lo32_le (partialProduct l r 0 2)
  omega

theorem mulColumns_k2_le (l r : U128) : (mulColumns l r).k2 ≤ 4 := by
  have := mulColumns_s2_le l r
  rw [MulColumns.k2]
  omega

/-- Column 3 is seven pieces and a carry of at most 4. -/
theorem mulColumns_s3_le (l r : U128) : (mulColumns l r).s3 ≤ 4 + 7 * (2 ^ 32 - 1) := by
  have column : (mulColumns l r).s3 = (mulColumns l r).k2 + hi32 (partialProduct l r 2 0) +
    hi32 (partialProduct l r 1 1) + hi32 (partialProduct l r 0 2) + lo32 (partialProduct l r 3 0) +
    lo32 (partialProduct l r 2 1) + lo32 (partialProduct l r 1 2) + lo32 (partialProduct l r 0 3) := rfl
  have carry := mulColumns_k2_le l r
  have h20 := hi32_le (partialProduct l r 2 0)
  have h11 := hi32_le (partialProduct l r 1 1)
  have h02 := hi32_le (partialProduct l r 0 2)
  have h30 := lo32_le (partialProduct l r 3 0)
  have h21 := lo32_le (partialProduct l r 2 1)
  have h12 := lo32_le (partialProduct l r 1 2)
  have h03 := lo32_le (partialProduct l r 0 3)
  omega

/-! ### The laws of `u128Mul` (R66) -/

theorem u128Mul_comm (a b : U128) : u128Mul a b = u128Mul b a := by
  rw [u128Mul_eq, u128Mul_eq, BitVec.mul_comm]

theorem u128Mul_assoc (a b c : U128) : u128Mul (u128Mul a b) c = u128Mul a (u128Mul b c) := by
  simp only [u128Mul_eq, BitVec.mul_assoc]

theorem u128Mul_u128Add (a b c : U128) : u128Mul a (u128Add b c) = u128Add (u128Mul a b) (u128Mul a c) := by
  simp only [u128Mul_eq, u128Add_eq, BitVec.mul_add]

theorem u128Mul_u128Sub (a b c : U128) : u128Mul a (u128Sub b c) = u128Sub (u128Mul a b) (u128Mul a c) := by
  simp only [u128Mul_eq, u128Sub_eq, BitVec.mul_sub]

/-- Multiplying by a power of two, itself taken modulo `2^128`, is a shift to the left. -/
theorem u128Mul_two_pow (a : U128) (k : Nat) : u128Mul a (BitVec.ofNat 128 (2 ^ k % 2 ^ 128)) = a <<< k := by
  have power : BitVec.ofNat 128 (2 ^ k % 2 ^ 128) = BitVec.twoPow 128 k := BitVec.eq_of_toNat_eq (by simp)
  rw [u128Mul_eq, power, BitVec.mul_twoPow_eq_shiftLeft]

/-- From the width on, the shift loses every bit. -/
theorem u128Mul_two_pow_of_width_le (a : U128) {k : Nat} (h : 128 ≤ k) :
    u128Mul a (BitVec.ofNat 128 (2 ^ k % 2 ^ 128)) = 0 := by
  rw [u128Mul_two_pow, BitVec.shiftLeft_eq_zero h]
  rfl

end Sys2Proof.Machine
end

section
/-! Obligations O26 to O29: multiplication (`42_multiply.md` R60 to R66). -/

namespace Sys2Proof.Machine

/-- Settles O26: the meaning responds `u128Mul`, and the columns give the same number. -/
theorem mulRespondsTheLowProduct : Obligations.MulRespondsTheLowProduct := by
  refine ⟨fun l r s hs => ?_, fun l r => opField_encode _, fun l r => ?_⟩
  · rw [← u128Mul_eq_ofNat_mod]
    exact respond_of_running _ _ hs
  · rw [← mulColumns_value_toNat, BitVec.ofNat_toNat, BitVec.setWidth_eq]

/-- Settles O27. -/
theorem keptPartialProductsSuffice : Obligations.KeptPartialProductsSuffice :=
  ⟨rfl, rfl, mem_discardedPairs_iff_not_mem_keptPairs, partialProduct_toNat, mul_eq_sum_limbPairs,
    fun l r _ h => dvd_of_mem_discardedPairs l r h, mul_mod_eq_keptSum⟩

/-- Settles O28: each bound is the number of pieces in the column and the bound of the carry into it. The carries are attained
by the vectors M20 and M21 of `95_test_vectors.md`. -/
theorem columnSumsAreBounded : Obligations.ColumnSumsAreBounded := by
  refine ⟨fun l r => ⟨mulColumns_s1_le l r, mulColumns_k1_le l r, mulColumns_s2_le l r, mulColumns_k2_le l r,
    mulColumns_s3_le l r, (mulColumns_s3_le l r).trans_lt (by decide), mulColumns_carry0 l r⟩,
    fun p => ⟨lo32_le p, hi32_le p⟩, ?k1Attained, ?k2Attained⟩
  case k1Attained =>
    exact ⟨0x000000000000000000000001FFFFFFFF, 0x000000000000000000000001FFFFFFFF, by decide⟩
  case k2Attained =>
    exact ⟨0x8000000100000001E76C0E2EFFFFFFFF, 0xFFFFFFFF00000001EBEEDC37FFFFFFFF, by decide⟩

/-- Settles O29: the functions are the ring operations of `BitVec 128`. The two products that agree are `0 · 0` and
`2^64 · 2^64`, of which only the second overflows. -/
theorem multiplicationLaws : Obligations.MultiplicationLaws := by
  refine ⟨u128Mul_comm, by decide, fun a => ⟨?zero, ?one⟩, u128Mul_assoc, u128Mul_u128Add, u128Mul_u128Sub,
    fun a k => ⟨u128Mul_two_pow a k, u128Mul_two_pow_of_width_le a⟩,
    ⟨0, 0, fromU64Be 1 0, fromU64Be 1 0, by decide⟩⟩
  case zero => rw [u128Mul_eq]; exact BitVec.mul_zero
  case one => rw [u128Mul_eq]; exact BitVec.mul_one a

end Sys2Proof.Machine
end

section
/-! Obligation O30: divide and modulo (`43_divide_modulo.md` R70, R71). -/

namespace Sys2Proof.Machine

open Sys2Proof.Safety

/-- A presented word with one of the two `op` values is `DIV` or `MOD`, whose cause in the tables is that of code 1. -/
theorem abortCause_of_divide_op {p : PortIn} (h : p.cmdOp = 0x3 ∨ p.cmdOp = 0x4) :
    abortCause (decode p.word) = some .unsupportedOperation := by
  rw [PortIn.word, decode_commandWord]
  obtain hdiv | hmod := h
  · rw [hdiv]; rfl
  · rw [hmod]; rfl

/-- The cycle that accepts a command with an abort cause answers nothing and enters the aborted state. -/
theorem cycle_of_abortCause {st : Status} {p : PortIn} {c : AbortCause} (hr : p.rst = false) (hv : p.cmdValid = true)
    (ha : st.aborted = false) (hc : abortCause (decode p.word) = some c) :
    cycle st p = ({ aborted := true, abortCode := c.code }, portsOut st true none) := by
  rw [cycle_accepted hr hv ha, perform_of_abortCause hc ha]

/-- Settles O30: both meanings are one `raiseAbort`, which reads no operand; at the ports the cycle is that of a command with
a cause, and the next one that of an aborted unit. -/
theorem divAndModTakeTheUnsupportedAbort : Obligations.DivAndModTakeTheUnsupportedAbort := by
  refine ⟨fun l r s hs => ?meaning, fun l r => ⟨opField_encode _, opField_encode _⟩,
    fun st p q ha hr hv hop hq => ?ports⟩
  case meaning =>
    have abort := raiseAbort_of_running .unsupportedOperation hs
    exact ⟨abort, abort⟩
  case ports =>
    rw [cycle_of_abortCause hr hv ha (abortCause_of_divide_op hop), cycle_of_aborted hq rfl]
    exact ⟨rfl, rfl, rfl, rfl, rfl, rfl⟩

end Sys2Proof.Machine
end

section
/-! The comparators over limbs (`44_compare.md` R76, R78) and the machine's own answer to a command as a number (R86). -/

namespace Sys2Proof.Machine

open Sys2Proof.Safety

/-! ### Trichotomy -/

theorem decide_lt_eq_gt_sum (m n : Nat) :
    (decide (m < n)).toNat + (decide (m = n)).toNat + (decide (n < m)).toNat = 1 := by
  obtain h | h | h := Nat.lt_trichotomy m n
  · simp [h, h.ne, h.not_gt]
  · simp [h]
  · simp [h, h.ne', h.not_gt]

/-! ### The limb cascade -/

theorem high32_append (x y : W32) : high32 (x ++ y) = x := BitVec.extractLsb'_append_eq_left

theorem low32_append (x y : W32) : low32 (x ++ y) = y := BitVec.extractLsb'_append_eq_right

/-- R76 substituted into R78, with `AND` distributed over `OR`. -/
theorem u128Lt_eq_cascade (x y : U128) : u128Lt x y = u128LtCascade x y := by
  simp only [u128Lt, u128LtCascade, cmp64Lt, cmp64Eq, hi_eq_limbs, lo_eq_limbs, high32_append, low32_append,
    Bool.and_or_distrib_left, Bool.or_assoc, Bool.and_assoc]

/-! ### The machine's answers -/

/-- The machine answers right after reset what the tables give. -/
theorem responseOf_of_contract {i : Instr} {r : Response} (h : contract i = some r) : responseOf i = some r := by
  rw [responseOf, exec_of_contract h Status.reset_aborted]
  rfl

theorem flagOf_of_contract {i : Instr} {v : U128} {f : Bool} (h : contract i = some ⟨v, f⟩) : flagOf i = f := by
  simp [flagOf, responseOf_of_contract h]

theorem valueOf_of_contract {i : Instr} {v : U128} {f : Bool} (h : contract i = some ⟨v, f⟩) : valueOf i = v := by
  simp [valueOf, responseOf_of_contract h]

theorem flagOf_eq (a b : U128) : flagOf (.eq a b) = decide (a.toNat = b.toNat) := flagOf_of_contract rfl

theorem flagOf_ne (a b : U128) : flagOf (.ne a b) = decide (a.toNat ≠ b.toNat) := flagOf_of_contract rfl

theorem flagOf_lt (a b : U128) : flagOf (.lt a b) = decide (a.toNat < b.toNat) := flagOf_of_contract rfl

theorem flagOf_le (a b : U128) : flagOf (.le a b) = decide (a.toNat ≤ b.toNat) := flagOf_of_contract rfl

theorem flagOf_gt (a b : U128) : flagOf (.gt a b) = decide (b.toNat < a.toNat) := flagOf_of_contract rfl

theorem flagOf_ge (a b : U128) : flagOf (.ge a b) = decide (b.toNat ≤ a.toNat) := flagOf_of_contract rfl

theorem valueOf_add (a b : U128) : valueOf (.add a b) = u128Add a b :=
  (valueOf_of_contract rfl).trans (u128Add_eq_ofNat_mod a b).symm

theorem valueOf_sub (a b : U128) : valueOf (.sub a b) = u128Sub a b :=
  (valueOf_of_contract rfl).trans (u128Sub_eq_ofNat_mod a b).symm

/-! ### When the arithmetic wraps (`41_add_sub.md` R56) -/

/-- The difference is not the exact one exactly when that is negative. -/
theorem u128Sub_wraps_iff (a b : U128) : a.toNat < b.toNat ↔ (a.toNat : Int) - b.toNat ≠ (u128Sub a b).toNat := by
  obtain h | h := Nat.lt_or_ge a.toNat b.toNat
  · exact iff_of_true h (by omega)
  · rw [u128Sub_toNat_of_le h]
    omega

/-- A sum that wraps falls below each operand, and one that does not stays at or above it. -/
theorem u128Add_wraps_iff (a b : U128) :
    (u128Add a b).toNat < a.toNat ↔ a.toNat + b.toNat ≠ (u128Add a b).toNat := by
  have hb := b.isLt
  rw [u128Add, BitVec.toNat_ofNat]
  omega

end Sys2Proof.Machine
end

section
/-! Obligations O32 to O36: the comparators and the six comparisons (`44_compare.md` R75 to R86). -/

namespace Sys2Proof.Machine

/-- Settles O32: both comparators decide a comparison of numbers, which is trichotomous. -/
theorem comparator32IsNumericAndTotal : Obligations.Comparator32IsNumericAndTotal := by
  refine fun x y => ⟨?equal, ?less, ?total, by decide⟩
  case equal => rw [cmp32Eq_eq_decide, decide_eq_true_iff]
  case less => rw [cmp32Lt, decide_eq_true_iff]
  case total =>
    rw [cmp32Eq_eq_decide]
    exact decide_lt_eq_gt_sum _ _

/-- Settles O33: the halves' comparison decides that of the numbers. -/
theorem comparator64IsNumeric : Obligations.Comparator64IsNumeric := by
  refine fun x y => ⟨rfl, rfl, ?equal, ?less⟩
  case equal => rw [cmp64Eq_eq_decide, decide_eq_true_iff, BitVec.toNat_eq]
  case less => rw [cmp64Lt_eq_decide, decide_eq_true_iff]

/-- Settles O34: the less-than and the last borrow decide one inequality; the cascade is the substitution of R76 into R78. -/
theorem comparator128IsNumericAndCascades : Obligations.Comparator128IsNumericAndCascades := by
  refine fun x y => ⟨rfl, ?identical, ?equal, rfl, ?less, u128Lt_eq_cascade x y, ?borrow⟩
  case identical => rw [u128Eq_eq_decide, decide_eq_true_iff, BitVec.toNat_eq]
  case equal => rw [u128Eq_eq_decide, decide_eq_true_iff]
  case less => rw [u128Lt_eq_decide, decide_eq_true_iff]
  case borrow => rw [u128Lt_eq_decide, rippleSub_c4]

/-- Settles O35: each command captures its response in the tables. -/
theorem comparisonsRespondTheirPredicates : Obligations.ComparisonsRespondTheirPredicates :=
  ⟨fun _ _ _ hs => ⟨exec_of_contract rfl hs, exec_of_contract rfl hs, exec_of_contract rfl hs, exec_of_contract rfl hs,
      exec_of_contract rfl hs, exec_of_contract rfl hs⟩,
    fun _ _ => ⟨opField_encode _, opField_encode _, opField_encode _, opField_encode _, opField_encode _,
      opField_encode _⟩⟩

/-- Settles O36: each flag decides a comparison of the numbers, so the laws are those of the order of the naturals. `GT` and
`GE` are `LT` and `LE` with the operands exchanged, one predicate written twice. -/
theorem orderLawsOfTheCommands : Obligations.OrderLawsOfTheCommands := by
  simp only [Obligations.OrderLawsOfTheCommands, flagOf_eq, flagOf_ne, flagOf_lt, flagOf_le, flagOf_gt, flagOf_ge,
    valueOf_add, valueOf_sub, decide_eq_true_iff]
  refine ⟨fun a b => ⟨decide_lt_eq_gt_sum _ _, decide_not, ?leIsNotGt, ?geIsNotLt, trivial, trivial, ?eqComm, ?leIsLtOrEq,
    ?irreflexive, BitVec.toNat_eq.symm, trivial, u128Sub_wraps_iff a b, u128Add_wraps_iff a b⟩, fun _ _ _ => Nat.lt_trans⟩
  case leIsNotGt => rw [← decide_not, decide_eq_decide, Nat.not_lt]
  case geIsNotLt => rw [← decide_not, decide_eq_decide, Nat.not_lt]
  case eqComm => rw [decide_eq_decide, eq_comm]
  case leIsLtOrEq => rw [← Bool.decide_or, decide_eq_decide, Nat.le_iff_lt_or_eq]
  case irreflexive => exact decide_eq_false (Nat.lt_irrefl _)

end Sys2Proof.Machine
end

section
/-! Facts about an aborted unit, the entry to the aborted state, runs of dutiful commands and platforms of several units
(`60_exceptions.md` R93 to R95, R101; `70_reset_and_hazards.md` R113). -/

namespace Sys2Proof.Machine

open Sys2Proof.Safety

/-! ### The aborted unit -/

/-- All that a step of an aborted unit can do (R94, R95; log entry 12): the script loses the action taken, if there was one,
and nothing else changes; or the action is a reset. -/
theorem step_next_of_aborted {s t : State} (h : step s = .next t) (ha : s.status.aborted = true) :
    t = { s with script := s.script.tail } ∨
    ∃ a rest, s.script = a :: rest ∧ a.rst = true ∧ t = { s with status := Status.reset, script := rest } := by
  obtain ⟨hs, rfl⟩ | ⟨a, rest, hs, ⟨hr, rfl⟩ | ⟨-, -, rfl⟩ | ⟨w, -, -, hexec⟩⟩ := step_next h
  · exact .inl (by rw [hs, List.tail_nil, ← hs])
  · exact .inr ⟨a, rest, hs, hr, rfl⟩
  · exact .inl (by rw [hs, List.tail_cons])
  · rw [exec_of_aborted (s := { s with script := rest }) _ ha] at hexec; cases hexec

/-! ### A presented command on a running unit, by the tables -/

theorem step_of_contract {s : State} {rest : List HostAction} {w : CmdWord} {r : Response} (hrun : s.status.aborted = false)
    (hs : s.script = HostAction.present w :: rest) (hr : contract (decode w) = some r) :
    step s = .next { s with script := rest, responses := s.responses ++ [r] } :=
  (stepRunsTheDecodedCommand s rest w _ hs rfl).trans (exec_of_contract hr hrun)

theorem step_of_abortCause {s : State} {rest : List HostAction} {w : CmdWord} {c : AbortCause}
    (hrun : s.status.aborted = false) (hs : s.script = HostAction.present w :: rest)
    (hc : abortCause (decode w) = some c) :
    step s = .next { s with status := { aborted := true, abortCode := c.code }, script := rest } :=
  (stepRunsTheDecodedCommand s rest w _ hs rfl).trans (exec_of_abortCause hc hrun)

theorem step_of_aborted {s : State} {rest : List HostAction} {w : CmdWord} (ha : s.status.aborted = true)
    (hs : s.script = HostAction.present w :: rest) : step s = .fault .stuckAborted :=
  (stepRunsTheDecodedCommand s rest w _ hs rfl).trans (exec_of_aborted _ ha)

/-- A running unit enters the aborted state only by accepting a command with a cause (R93). -/
theorem abortCause_of_step_into_aborted {s t : State} (h : step s = .next t) (hrun : s.status.aborted = false)
    (ht : t.status.aborted = true) :
    ∃ w rest c, s.script = HostAction.present w :: rest ∧ abortCause (decode w) = some c := by
  obtain ⟨-, rfl⟩ | ⟨a, rest, hs, ⟨-, rfl⟩ | ⟨-, -, rfl⟩ | ⟨w, hr, hc, hexec⟩⟩ := step_next h
  · exact absurd ht (by simp [hrun])
  · exact absurd ht (by simp)
  · exact absurd ht (by simp [hrun])
  · obtain ⟨-, ⟨r, -, rfl⟩ | ⟨c, hcause, -⟩⟩ := exec_next_by_table hexec
    · exact absurd ht (by simp [hrun])
    · exact ⟨w, rest, c, HostAction.eq_present hr hc ▸ hs, hcause⟩

/-! ### Runs of dutiful commands -/

/-- A running unit answers the dutiful commands at the head of the script in order, and the rest of the script stands. -/
theorem reaches_of_dutiful {cmds : List Instr} (hd : ∀ i ∈ cmds, i.dutiful = true) {s : State} {rest : List HostAction}
    (hrun : s.status.aborted = false) (hs : s.script = (cmds.map encode).map HostAction.present ++ rest) :
    Reaches s cmds.length { s with script := rest, responses := s.responses ++ cmds.filterMap contract } := by
  induction cmds generalizing s with
  | nil => exact reaches_zero.2 (by simp [← show s.script = rest from hs])
  | cons i cmds ih =>
    obtain ⟨hi, hcmds⟩ := List.forall_mem_cons.1 hd
    obtain ⟨r, hr⟩ := contract_of_dutiful hi
    refine reaches_succ.2 ⟨_, step_of_contract hrun hs ((decode_encode i).symm ▸ hr), ?_⟩
    simpa [hr] using ih hcmds (s := { s with script := _, responses := s.responses ++ [r] }) hrun rfl

/-- After the dutiful commands, a command with a cause aborts, and the rest of the script stands. -/
theorem reaches_of_dutiful_then_abort {before : List Instr} (hd : ∀ i ∈ before, i.dutiful = true) {bad : Instr}
    {c : AbortCause} (hc : abortCause bad = some c) {s : State} {rest : List HostAction} (hrun : s.status.aborted = false)
    (hs : s.script = (before.map encode).map HostAction.present ++ HostAction.present (encode bad) :: rest) :
    Reaches s (before.length + 1) { status := { aborted := true, abortCode := c.code }, script := rest,
                                    responses := s.responses ++ before.filterMap contract } := by
  have answered := reaches_of_dutiful hd hrun hs
  rw [← decode_encode bad] at hc
  exact reaches_add.2 ⟨_, answered, reaches_succ.2 ⟨_, step_of_abortCause hrun rfl hc, reaches_zero.2 rfl⟩⟩

/-! ### Platforms -/

theorem stepUnit_of_step {units : List State} {k : Nat} {s t : State} (hk : units[k]? = some s) (h : step s = .next t) :
    stepUnit k units = units.set k t := by simp [stepUnit, hk, h]

/-- A step of unit `k` leaves the platform as it is or replaces that unit. -/
theorem stepUnit_shape (k : Nat) (units : List State) :
    stepUnit k units = units ∨ ∃ t, stepUnit k units = units.set k t := by
  cases hk : units[k]? with
  | none => exact .inl (by simp [stepUnit, hk])
  | some s =>
    cases h : step s with
    | next t => exact .inr ⟨t, stepUnit_of_step hk h⟩
    | fault r => exact .inl (by simp [stepUnit, hk, h])
    | refused r => exact .inl (by simp [stepUnit, hk, h])

end Sys2Proof.Machine
end

section
/-! Obligations O9, O10, O11, O12, O42 and O50: the exception and the idle unit (`60_exceptions.md` R90 to R95, R101, R102). -/

namespace Sys2Proof.Machine

open Sys2Proof.Safety

/-- Settles O9. -/
theorem idleStepKeepsStatus : Obligations.IdleStepKeepsStatus :=
  ⟨fun _ _ _ hs hr hc => (step_cons hs).trans (takeAction_idle _ hr hc), fun _ => step_nil⟩

/-- Settles O10: a presented command is not accepted, any other step is idle or a reset, and the cycle is that of an aborted
unit. -/
theorem abortedUnitIsStuck : Obligations.AbortedUnitIsStuck := by
  refine ⟨fun s rest w ha hs => step_of_aborted ha hs, fun s t ha h => ?steps, fun st p ha hr => ?ports⟩
  case steps =>
    obtain rfl | ⟨a, rest, hs, hr, rfl⟩ := step_next_of_aborted h ha
    · exact ⟨rfl, .inl rfl⟩
    · exact ⟨rfl, .inr ⟨a, rest, hs, hr⟩⟩
  case ports => rw [cycle_of_aborted hr ha]; exact ⟨rfl, rfl, rfl⟩

/-- Settles O11: an idle step keeps `STATUS`, so it ends aborted with the same code; a reset ends running with code 0. -/
theorem onlyResetLeavesTheAbortedState : Obligations.OnlyResetLeavesTheAbortedState := by
  intro s t h ha
  obtain rfl | ⟨a, rest, hs, hr, rfl⟩ := step_next_of_aborted h ha
  · exact ⟨fun ht => absurd ha (by simpa using ht), fun _ => rfl⟩
  · exact ⟨fun _ => ⟨rfl, a, rest, hs, hr⟩, fun ht => absurd ht (by simp)⟩

/-- Settles O12: the causes row by row of the operation map; a step enters the aborted state only from a command with a cause,
and from such a command it does so and records the code. -/
theorem onlyNamedCausesAbort : Obligations.OnlyNamedCausesAbort := by
  refine ⟨fun i => ?causes, rfl, rfl, fun s t h hrun => ⟨⟨abortCause_of_step_into_aborted h hrun, ?enters⟩, ?records⟩⟩
  case causes =>
    cases i
    case add | sub | mul | eq | ne | lt | le | gt | ge => rfl
    case div | mod => rfl
    case reserved5 | reserved6 | reserved7 | reservedE | reservedF => rfl
  case enters =>
    rintro ⟨w, rest, c, hs, hc⟩
    cases (step_of_abortCause hrun hs hc).symm.trans h
    rfl
  case records =>
    intro w rest c hs hc
    cases (step_of_abortCause hrun hs hc).symm.trans h
    rfl

/-- Settles O42: the run answers the commands before `bad` and aborts at it; the command after it meets an aborted unit. -/
theorem abortIsPrecise : Obligations.AbortIsPrecise := by
  intro before bad after c hd hc
  have run := reaches_of_dutiful_then_abort hd hc (s := boot ((before ++ bad :: after).map encode))
    (rest := (after.map encode).map HostAction.present) rfl (by simp [boot])
  refine ⟨_, run, rfl, rfl, List.nil_append _, List.map_map, fun hafter => ?_⟩
  obtain ⟨i, later, rfl⟩ := List.exists_cons_of_ne_nil hafter
  exact step_of_aborted rfl rfl

/-- Settles O50: the platform stands or has its unit `k` replaced, and no other. -/
theorem unitsShareNothing : Obligations.UnitsShareNothing := by
  refine fun units k j => ⟨fun hjk => ?others, fun s t hk h => ?own, ?length⟩
  case others =>
    obtain h | ⟨t, h⟩ := stepUnit_shape k units
    · rw [h]
    · rw [h, List.getElem?_set_ne hjk.symm]
  case own =>
    obtain ⟨hlt, -⟩ := List.getElem?_eq_some_iff.1 hk
    rw [stepUnit_of_step hk h, List.getElem?_set_self hlt]
  case length =>
    obtain h | ⟨t, h⟩ := stepUnit_shape k units
    · rw [h]
    · rw [h, List.length_set]

end Sys2Proof.Machine
end

section
/-! Facts about an implementation that may be busy (`70_reset_and_hazards.md` R111): the cycle of an idle unit, how the lists of
a sequence of cycles grow, and the cycles from a command in flight to its completion. -/

namespace Sys2Proof.Machine

open Sys2Proof.Safety

/-! ### What a command comes to, by the tables -/

/-- The tables give a command a response or a cause, and not both. -/
theorem contract_or_abortCause (i : Instr) :
    (∃ r, contract i = some r ∧ abortCause i = none) ∨ ∃ c, contract i = none ∧ abortCause i = some c := by
  cases h : outcomeOf i.op i.lhs i.rhs with
  | responds r => exact .inl ⟨r, contract_of_responds h⟩
  | aborts c => exact .inr ⟨c, abortCause_of_aborts h⟩

theorem perform_response {st : Status} (w : CmdWord) (hst : st.aborted = false) :
    (perform st w).2 = contract (decode w) := by
  obtain ⟨r, hr, -⟩ | ⟨c, hr, hc⟩ := contract_or_abortCause (decode w)
  · rw [perform_of_contract hr hst, hr]
  · rw [perform_of_abortCause hc hst, hr]

theorem perform_status_of_no_cause {st : Status} {w : CmdWord} (h : abortCause (decode w) = none) (hst : st.aborted = false) :
    (perform st w).1 = st := by
  obtain ⟨r, hr, -⟩ | ⟨c, -, hc⟩ := contract_or_abortCause (decode w)
  · rw [perform_of_contract hr hst]
  · cases hc.symm.trans h

theorem perform_aborted {st : Status} (w : CmdWord) (hst : st.aborted = false) :
    (perform st w).1.aborted = (abortCause (decode w)).isSome := by
  cases h : abortCause (decode w) with
  | none => rw [perform_status_of_no_cause h hst, hst]; rfl
  | some c => rw [perform_of_abortCause h hst]; rfl

/-! ### The lists of a sequence of cycles -/

theorem responsesOf_cons (out : PortOut) (outs : List PortOut) :
    responsesOf (out :: outs) = responsesOf [out] ++ responsesOf outs :=
  responsesOf_append [out] outs

theorem acceptedOf_cons (p : PortIn) (ins : List PortIn) (out : PortOut) (outs : List PortOut) :
    acceptedOf (p :: ins) (out :: outs) = acceptedOf [p] [out] ++ acceptedOf ins outs :=
  List.filterMap_append (l := [(p, out)])

theorem acceptedOf_singleton {p : PortIn} (out : PortOut) (hr : p.rst = false) :
    acceptedOf [p] [out] = if p.cmdValid && out.cmdReady then [p.word] else [] := by
  cases hv : p.cmdValid <;> cases hready : out.cmdReady <;> simp [acceptedOf, hr, hv, hready]

@[simp] theorem portsOut_cmdReady (st : Status) (ready : Bool) (rsp : Option Response) :
    (portsOut st ready rsp).cmdReady = ready := rfl

/-! ### A cycle of an idle unit -/

/-- Where no command is accepted, or where the accepted one takes no time, the cycle is that of the reference. -/
theorem busyCycle_eq_cycle {latency : OpSel → Nat} {st : Status} {p : PortIn}
    (h : (p.rst || !p.cmdValid || st.aborted) = true ∨ latency p.cmdOp = 0) :
    busyCycle latency { status := st, inFlight := none } p =
      ({ status := (cycle st p).1, inFlight := none }, (cycle st p).2) := by
  unfold busyCycle cycle
  split_ifs with hr hacc
  · rfl
  · have hlat : latency p.cmdOp = 0 := h.resolve_left (by simpa [cmdReady, hr] using hacc)
    simp [hlat]
  · rfl

/-- An accepted command that takes time is in flight after the cycle, and `STATUS` is as before. -/
theorem busyCycle_starting {latency : OpSel → Nat} {st : Status} {p : PortIn} {n : Nat} (hr : p.rst = false)
    (hv : p.cmdValid = true) (ha : st.aborted = false) (hn : latency p.cmdOp = n + 1) :
    busyCycle latency { status := st, inFlight := none } p =
      ({ status := st, inFlight := some (n, p.word) }, portsOut st true none) := by
  simp [busyCycle, cmdReady, hr, hv, ha, hn]

/-- With no command in flight, `cmd_ready` in a cycle without reset follows `ABORTED`, whatever is presented (R30). -/
theorem busyCycle_idle_cmdReady (latency : OpSel → Nat) (st : Status) {p : PortIn} (hr : p.rst = false) :
    (busyCycle latency { status := st, inFlight := none } p).2.cmdReady = !st.aborted := by
  by_cases h : (p.rst || !p.cmdValid || st.aborted) = true ∨ latency p.cmdOp = 0
  · obtain ⟨rsp, hout⟩ := cycle_out_eq_portsOut st p
    rw [busyCycle_eq_cycle h, hout]
    simp [portsOut, cmdReady, hr]
  · obtain ⟨hacc, hlat⟩ := not_or.1 h
    obtain ⟨-, hv, ha⟩ := accepted_iff.1 (Bool.not_eq_true _ ▸ hacc)
    obtain ⟨n, hn⟩ := Nat.exists_eq_succ_of_ne_zero hlat
    rw [busyCycle_starting hr hv ha hn, ha]
    rfl

/-! ### From a command in flight to its completion -/

/-- A command in flight with `n` cycles still to wait is completed by `n + 1` cycles; only the last has a response. -/
theorem busyCycles_inFlight (latency : OpSel → Nat) (st : Status) (w : CmdWord) {n : Nat} {later : List PortIn}
    (hr : ∀ q ∈ later, q.rst = false) (hlen : later.length = n + 1) :
    busyCycles latency { status := st, inFlight := some (n, w) } later =
      ({ status := (perform st w).1, inFlight := none },
        List.replicate n (portsOut st false none) ++ [portsOut st false (perform st w).2]) := by
  induction n generalizing later with
  | zero =>
    obtain ⟨p, rfl⟩ := List.length_eq_one_iff.1 hlen
    simp [busyCycles, busyCycle_completing latency st w (hr p (by simp))]
  | succ n ih =>
    obtain ⟨p, rest, rfl⟩ := List.exists_cons_of_length_eq_add_one hlen
    obtain ⟨hp, hrest⟩ := List.forall_mem_cons.1 hr
    simp [busyCycles, busyCycle_waiting latency st n w hp, ih hrest (Nat.succ.inj hlen), List.replicate_succ]

/-- Of a command held on the ports nothing is accepted until the cycle after the one that completes the command in flight. -/
theorem acceptedOf_held (latency : OpSel → Nat) (st : Status) (w : CmdWord) {p : PortIn} (hr : p.rst = false) (n : Nat) :
    acceptedOf (List.replicate (n + 2) p)
        (busyCycles latency { status := st, inFlight := some (n, w) } (List.replicate (n + 2) p)).2 =
      acceptedOf [p] [(busyCycle latency { status := (perform st w).1, inFlight := none } p).2] := by
  induction n with
  | zero =>
    rw [List.replicate_succ, busyCycles, busyCycle_completing latency st w hr, acceptedOf_cons, acceptedOf_singleton _ hr]
    simp [busyCycles]
  | succ n ih =>
    rw [List.replicate_succ, busyCycles, busyCycle_waiting latency st n w hr, acceptedOf_cons, acceptedOf_singleton _ hr, ih]
    simp

theorem responsesOf_waiting (st : Status) (n : Nat) (rsp : Option Response) :
    responsesOf (List.replicate n (portsOut st false none) ++ [portsOut st false rsp]) = rsp.toList := by
  have waits : responsesOf (List.replicate n (portsOut st false none)) = [] := by simp [responsesOf, portsOut]
  rw [responsesOf_append, waits, responsesOf_portsOut, List.nil_append]

/-- A command presented to an idle running unit is completed `LATENCY(op)` cycles after the one that accepts it; only the
last of these cycles has a response. -/
theorem busyCycles_presented {latency : OpSel → Nat} {st : Status} {p : PortIn} {later : List PortIn} (hr : p.rst = false)
    (hv : p.cmdValid = true) (ha : st.aborted = false) (hlater : ∀ q ∈ later, q.rst = false)
    (hlen : later.length = latency p.cmdOp) :
    ∃ outs, busyCycles latency { status := st, inFlight := none } (p :: later) =
        ({ status := (perform st p.word).1, inFlight := none }, outs) ∧
      outs.map PortOut.cmdReady = true :: List.replicate (latency p.cmdOp) false ∧
      outs.map PortOut.rspValid = List.replicate (latency p.cmdOp) false ++ [(perform st p.word).2.isSome] ∧
      responsesOf outs = (perform st p.word).2.toList := by
  cases hlat : latency p.cmdOp with
  | zero =>
    obtain rfl := List.eq_nil_of_length_eq_zero (hlen.trans hlat)
    refine ⟨[portsOut st true (perform st p.word).2], ?_, rfl, rfl, responsesOf_portsOut _ _ _⟩
    rw [busyCycles, busyCycle_eq_cycle (.inr hlat), cycle_accepted hr hv ha, busyCycles]
  | succ n =>
    refine ⟨portsOut st true none :: (List.replicate n (portsOut st false none) ++ [portsOut st false (perform st p.word).2]),
      ?_, ?_, ?_, ?_⟩
    · rw [busyCycles, busyCycle_starting hr hv ha hlat, busyCycles_inFlight latency st p.word hlater (hlen.trans hlat)]
    · simp [portsOut, List.replicate_add]
    · simp [portsOut, List.replicate_succ]
    · rw [responsesOf_cons, responsesOf_portsOut, responsesOf_waiting]; rfl

/-! ### Conservation of commands and responses -/

/-- The commands a unit has accepted and not completed. -/
def BusyUnit.pending (u : BusyUnit) : List CmdWord := (u.inFlight.map Prod.snd).toList

/-- One cycle without reset: the pending command, the one accepted in the cycle and any later ones come to the response on
the ports and what the command pending after the cycle and the later ones come to. -/
theorem performAll_busyCycle (latency : OpSel → Nat) (u : BusyUnit) {p : PortIn} (hr : p.rst = false) (ws : List CmdWord) :
    performAll u.status (u.pending ++ (acceptedOf [p] [(busyCycle latency u p).2] ++ ws)) =
      ((performAll (busyCycle latency u p).1.status ((busyCycle latency u p).1.pending ++ ws)).1,
        responsesOf [(busyCycle latency u p).2] ++
          (performAll (busyCycle latency u p).1.status ((busyCycle latency u p).1.pending ++ ws)).2) := by
  obtain ⟨st, _ | ⟨_ | n, w⟩⟩ := u
  case none =>
    cases hacc : p.rst || !p.cmdValid || st.aborted with
    | true =>
      rw [busyCycle_eq_cycle (.inl hacc), cycle_not_accepted hacc]
      have hno : (p.cmdValid && cmdReady st false) = false := by simpa [cmdReady, hr, imp_iff_not_or] using hacc
      simp [BusyUnit.pending, acceptedOf_singleton, responsesOf_portsOut, hr, hno]
    | false =>
      obtain ⟨-, hv, ha⟩ := accepted_iff.1 hacc
      cases hlat : latency p.cmdOp with
      | zero =>
        rw [busyCycle_eq_cycle (.inr hlat), cycle_accepted hr hv ha]
        simp [BusyUnit.pending, acceptedOf_singleton, responsesOf_portsOut, hr, hv, performAll]
      | succ n =>
        rw [busyCycle_starting hr hv ha hlat]
        simp [BusyUnit.pending, acceptedOf_singleton, responsesOf_portsOut, hr, hv]
  case zero =>
    rw [busyCycle_completing latency st w hr]
    simp [BusyUnit.pending, acceptedOf_singleton, responsesOf_portsOut, hr, performAll]
  case succ =>
    rw [busyCycle_waiting latency st n w hr]
    simp [BusyUnit.pending, acceptedOf_singleton, responsesOf_portsOut, hr]

/-- So it is with a sequence of cycles, by induction: what is pending after them comes to what is still to come. -/
theorem performAll_busyCycles (latency : OpSel → Nat) (u : BusyUnit) {ins : List PortIn} (hr : ∀ p ∈ ins, p.rst = false) :
    performAll u.status (u.pending ++ acceptedOf ins (busyCycles latency u ins).2) =
      ((performAll (busyCycles latency u ins).1.status (busyCycles latency u ins).1.pending).1,
        responsesOf (busyCycles latency u ins).2 ++
          (performAll (busyCycles latency u ins).1.status (busyCycles latency u ins).1.pending).2) := by
  induction ins generalizing u with
  | nil => simp [busyCycles, acceptedOf, responsesOf]
  | cons p ins ih =>
    obtain ⟨hp, hins⟩ := List.forall_mem_cons.1 hr
    rw [busyCycles, acceptedOf_cons, performAll_busyCycle latency u hp, ih _ hins, ← List.append_assoc,
      ← responsesOf_cons]

end Sys2Proof.Machine
end

section
/-! Obligations O8, O41, O45, O46, O47 and O51: reset, the run of a dutiful host, and latency (`70_reset_and_hazards.md`). -/

namespace Sys2Proof.Machine

open Sys2Proof.Safety

/-- Settles O8: reset is the first case of a step and of a cycle, whatever the command. -/
theorem resetOverridesEverything : Obligations.ResetOverridesEverything := by
  refine ⟨fun s a rest hs hr => (step_cons hs).trans (takeAction_reset _ hr), fun st p q hp hq => ?_⟩
  rw [cycle_reset st hp, cycle_reset _ hq]
  exact ⟨rfl, rfl, rfl, rfl, rfl, rfl⟩

/-- Settles O41: the run answers the dutiful commands, and after them the script is empty; the tables have a response for
each. -/
theorem dutifulRunIsAnsweredInOrder : Obligations.DutifulRunIsAnsweredInOrder := by
  refine fun cmds hd => ⟨reaches_of_dutiful hd rfl (List.append_nil _).symm, ?_⟩
  rw [List.filterMap_length_eq_length]
  exact fun i hi => Option.isSome_iff_exists.2 (contract_of_dutiful (hd i hi))

/-- Settles O45: nothing is pending before the first cycle or after the last, so the accepted commands come to the responses
on the ports. -/
theorem latencyIsUnobservable : Obligations.LatencyIsUnobservable := by
  intro latency st ins hr hidle
  have conserved := performAll_busyCycles latency { status := st, inFlight := none } hr
  simpa [BusyUnit.pending, hidle, performAll] using conserved

/-- Settles O46, by induction over the cycles: with no latency each cycle is the reference's. -/
theorem zeroLatencyIsTheReference : Obligations.ZeroLatencyIsTheReference := by
  intro st ins
  induction ins generalizing st with
  | nil => exact ⟨rfl, rfl⟩
  | cons p ins ih =>
    obtain ⟨houts, hunit⟩ := ih (cycle st p).1
    rw [busyCycles, cycles, busyCycle_eq_cycle (.inr rfl), houts, hunit]
    exact ⟨rfl, rfl⟩

/-- Settles O47: the accepted command runs to its completion, and the tables say what it comes to. -/
theorem presentedCommandIsAnswered : Obligations.PresentedCommandIsAnswered := by
  refine ⟨fun latency st p ha hr hv => ?accepted, fun latency st p later ha hr hv hlater hlen => ?completed⟩
  case accepted =>
    have hready := (busyCycle_idle_cmdReady latency st hr).trans (congrArg not ha)
    exact ⟨hready, by simp [acceptedOf_singleton, hr, hv, hready]⟩
  case completed =>
    obtain ⟨outs, hrun, hready, hvalid, hrsp⟩ := busyCycles_presented hr hv ha hlater hlen
    refine ⟨_, outs, hrun, rfl, hready, fun r h => ?_, fun c h => ?_⟩
    · rw [perform_of_contract h ha] at hvalid hrsp ⊢
      exact ⟨rfl, hrsp, hvalid⟩
    · rw [perform_of_abortCause h ha] at hrsp ⊢
      exact ⟨rfl, hrsp⟩

/-- Settles O51: the command in flight runs to its completion; the unit is then idle, and aborted exactly when the command has
a cause. -/
theorem busyUnitBecomesReady : Obligations.BusyUnitBecomesReady := by
  refine fun latency st n w ha => ⟨fun later hlater hlen => ?completed, fun p hr hv => ?held⟩
  case completed =>
    refine ⟨_, _, busyCycles_inFlight latency st w hlater hlen, rfl, ?_, ?_, fun h => perform_status_of_no_cause h ha,
      fun c h => by rw [perform_of_abortCause h ha], fun p hr => ?_⟩
    · simp [portsOut, List.replicate_succ']
    · rw [responsesOf_waiting, perform_response w ha]
    · rw [busyCycle_idle_cmdReady latency _ hr, perform_aborted w ha, Option.not_isSome]
  case held =>
    rw [acceptedOf_held latency st w hr n, acceptedOf_singleton _ hr, busyCycle_idle_cmdReady latency _ hr,
      perform_aborted w ha, Option.not_isSome, hv, Bool.true_and]

end Sys2Proof.Machine
end
